-- ==== Sys2Proof/Word.lean ====
section
/-!
DEFINITION. The word types of the block: the 64-bit register value of 10_state.md R14 and R15, the parts of a bus
transaction (20_memory.md R32, R33) and the 64-row matrix of R19.
-/

namespace Sys2Proof

/-- A register, a matrix row, a vector, a command word: 64 bits (R5 CRCW and BUSW, R15, R19, R49). -/
abbrev Word := BitVec 64

/-- A byte offset in the register window: `req_addr`, 12 bits (R32, R33). -/
abbrev Offset := BitVec 12

/-- The byte enables of a write: `req_wstrb`, 8 bits (R32, R33). -/
abbrev Strobe := BitVec 8

/-- One byte lane of a word (R39). -/
abbrev Byte := BitVec 8

/-- "An ordered sequence of exactly 64 unsigned 64-bit rows" (R19): every content is a legal matrix. -/
abbrev GF2Matrix := Vector Word 64

end Sys2Proof
end

