-- ==== Sys2Proof/Config.lean ====
section
/-!
DEFINITION. What the spec fixes as a parameter (00_scope.md R5, R7) and what it leaves open: the place of the window
(R7, U10) and the data of an ERROR read (20_memory.md R38, U1).
-/

namespace Sys2Proof.Config

/-- DIM (R5): rows and columns of a matrix. -/
def dim : Nat := 64

/-- M (R5): the Adler-32 modulus. -/
def adlerModulus : Nat := 65521

/-- WINDOW (R7): the bytes of the register window. -/
def windowBytes : Nat := 4096

/-- Which 4096-byte page the platform maps the window to (R7: BASE is OPEN, "a multiple of 4096"; U10 `parameter`).
It has no body: every statement that names it holds wherever the window is. -/
opaque windowPage : Nat

/-- BASE (R7): the bus address of offset 0 of the window. -/
def base : Nat := windowBytes * windowPage

/-- The data of the `n`th ERROR read (R38: "a model treats it as any value"; U1 `any value`). It has no body: the
value is free. -/
opaque errorReadData : Nat → Word

end Sys2Proof.Config
end

