-- ==== Sys2Proof/Syntax.lean ====
section
/-!
DEFINITION. What the host can say to the block and what the block can answer: the six commands (30_encoding.md R52),
the registers of the window (20_memory.md R34), the transactions and their responses (R33), the events of the port
(R33, 70_reset_and_hazards.md R119, R120) and the lines of a host script (R58).
-/

namespace Sys2Proof

/-- A matrix slot (R19): M0 or M1. -/
inductive Slot where
  | m0
  | m1
deriving DecidableEq, Repr

/-- The commands of GF2C version 1, one constructor per row of the opcode map (R52). The format S commands carry the slot
that bit 8 of the word names; the format N commands carry nothing (R50, R53). -/
inductive Instr where
  /-- `GF2.APPLY S` (R62) -/
  | gf2Apply (slot : Slot)
  /-- `GF2.SQUARE S` (R66) -/
  | gf2Square (slot : Slot)
  /-- `ZOP.BASE S` (R72) -/
  | zopBase (slot : Slot)
  /-- `ZOP.SEED` (R74) -/
  | zopSeed
  /-- `CRC64.COMBINE` (R82) -/
  | crc64Combine
  /-- `ADLER32.COMBINE` (R91) -/
  | adler32Combine
deriving DecidableEq, Repr

/-- Why a command word is illegal (R51, R55). All three raise the same IllegalCommand. -/
inductive IllegalReason where
  /-- bits 63:9 are not all 0 -/
  | zeroFieldSet
  /-- bit 8 is 1 in a format N word -/
  | slotBitSet
  /-- OPC is 0x00 or 0x07 to 0xFF -/
  | opcodeUnassigned
deriving DecidableEq, Repr

/-- What decoding a command word gives (R51): a command, or IllegalCommand. -/
inductive Decoded where
  | command (i : Instr)
  | illegal (why : IllegalReason)
deriving DecidableEq, Repr

/-- The registers of the window (R34): the seven named ones and the 128 slot rows. -/
inductive WindowReg where
  | cmd
  | status
  | poly
  | opa
  | opb
  | len
  | res
  | row (slot : Slot) (i : Fin 64)
deriving DecidableEq, Repr

/-- A bus transaction (R33). -/
inductive Transaction where
  | busRead (off : Offset)
  | busWrite (off : Offset) (data : Word) (strb : Strobe)
deriving DecidableEq, Repr

/-- `rsp_err` (R32): OKAY or ERROR. -/
inductive Resp where
  | okay
  | error
deriving DecidableEq, Repr

/-- The block's answer to a transaction (R33): a read returns a response and 64 bits of data, a write a response. -/
inductive Response where
  | read (resp : Resp) (data : Word)
  | write (resp : Resp)
deriving DecidableEq, Repr

/-- What reaches the block from outside in one step. -/
inductive HostEvent where
  /-- the host presents a transaction and it is answered (R32, R33) -/
  | request (t : Transaction)
  /-- the environment resets the block between two transactions (R119) -/
  | reset
  /-- the block takes the transaction and is reset before it answers (R120) -/
  | resetDuring (t : Transaction)
deriving DecidableEq, Repr

/-- A line of a host script (R58). -/
inductive ScriptLine where
  /-- `WR <reg>, <value>` -/
  | wr (reg : WindowReg) (value : Word)
  /-- `RD <reg>` -/
  | rd (reg : WindowReg)
  /-- a command mnemonic -/
  | command (i : Instr)
deriving DecidableEq, Repr

end Sys2Proof
end

