-- ==== Sys2Proof/WellFormed.lean ====
section
/-!
DEFINITION. Which terms are well formed, written from the spec's own tables and not from the decoder: commands (all of
them: the slot is one bit, 30_encoding.md R53), command words (R55), transactions (20_memory.md R38, R105 check 1) and
script lines (30_encoding.md R58).
-/

namespace Sys2Proof

/-- Every command of the syntax can be encoded: its one operand field is one bit and both values are legal (R52, R53). -/
def Instr.wellFormed : Instr → Bool
  | .gf2Apply _ => true
  | .gf2Square _ => true
  | .zopBase _ => true
  | .zopSeed => true
  | .crc64Combine => true
  | .adler32Combine => true

/-- The nine legal command words (R52: "the word values are all the legal command words there are (nine)"). -/
def legalWords : List Word :=
  [0x001, 0x101, 0x002, 0x102, 0x003, 0x103, 0x004, 0x005, 0x006]

/-- The word is one of the nine (R55: "Every command word that rule R52 does not list is illegal"). -/
def legalWord (w : Word) : Bool := legalWords.contains w

/-- Check 1 of a transaction (R38 "misaligned"): `off[2:0]` is 0. -/
def aligned (off : Offset) : Bool := off.extractLsb' 0 3 == 0

/-- Check 2 of a transaction (R38 "unmapped"): the offset is not in 0x038..0x1FF or 0x600..0xFFF. -/
def mapped (off : Offset) : Bool :=
  !((0x038 ≤ off && off ≤ 0x1FF) || (0x600 ≤ off && off ≤ 0xFFF))

/-- Check 3 of a write (R38 "narrow or sparse write"): all eight byte enables are on. -/
def fullStrobe (strb : Strobe) : Bool := strb == 0xFF

/-- Check 4 of a write (R38 "write to a read-only register"): the offset is not that of STATUS or RES. -/
def writableOffset (off : Offset) : Bool := !(off == 0x008 || off == 0x030)

/-- The transaction is good: none of the four cases of R38 holds. -/
def Transaction.wellFormed : Transaction → Bool
  | .busRead off => aligned off && mapped off
  | .busWrite off _ strb => aligned off && mapped off && fullStrobe strb && writableOffset off

/-- The line is one R58 allows: `WR` names CMD, POLY, OPA, OPB, LEN or a slot row, never STATUS or RES. -/
def ScriptLine.wellFormed : ScriptLine → Bool
  | .wr .status _ => false
  | .wr .res _ => false
  | .wr _ _ => true
  | .rd _ => true
  | .command i => i.wellFormed

end Sys2Proof
end

