-- ==== Sys2Proof/Decode.lean ====
section
/-!
DEFINITION. Decoding and encoding of command words (30_encoding.md R48 to R53). Decoding is total on the 64-bit words
(R51) and names why it rejects a word.
-/

namespace Sys2Proof

/-- OPC, bits 7:0 (R17, R50). -/
def opcField (w : Word) : BitVec 8 := w.extractLsb' 0 8

/-- S, bit 8 (R17, R50). -/
def slotBit (w : Word) : Bool := w.getLsbD 8

/-- ZERO, bits 63:9 (R17, R50). -/
def zeroField (w : Word) : BitVec 55 := w.extractLsb' 9 55

/-- S as a slot: 0 is M0 and 1 is M1 (R53). -/
def slotOfBit : Bool → Slot
  | false => .m0
  | true => .m1

/-- The slot as the bit S (R53). -/
def bitOfSlot : Slot → Bool
  | .m0 => false
  | .m1 => true

/-- A format N command: bit 8 must be 0 (R50, R51). -/
def decodeFormatN (w : Word) (i : Instr) : Decoded :=
  if slotBit w then .illegal .slotBitSet else .command i

/-- R51. The ZERO field is looked at first, then OPC, then, for format N, S. -/
def decode (w : Word) : Decoded :=
  if zeroField w ≠ 0 then .illegal .zeroFieldSet
  else if opcField w = 0x01 then .command (.gf2Apply (slotOfBit (slotBit w)))
  else if opcField w = 0x02 then .command (.gf2Square (slotOfBit (slotBit w)))
  else if opcField w = 0x03 then .command (.zopBase (slotOfBit (slotBit w)))
  else if opcField w = 0x04 then decodeFormatN w .zopSeed
  else if opcField w = 0x05 then decodeFormatN w .crc64Combine
  else if opcField w = 0x06 then decodeFormatN w .adler32Combine
  else .illegal .opcodeUnassigned

/-- The instruction the decoder reads from `nbits` bits `w` of the opcode table. A command word is one 64-bit value
(R49), the data of one bus write, so there is no order of words or bytes to lay out (R39); more than 64 bits is no
command word. -/
def decodeTableWord (nbits w : Nat) : Option Instr :=
  if nbits ≤ 64 then
    match decode (BitVec.ofNat 64 (w % 2 ^ nbits)) with
    | .command i => some i
    | .illegal _ => none
  else none

/-- A command word from its fields: ZERO, S, OPC (R50). -/
def wordOfFields (s : Bool) (opc : BitVec 8) : Word :=
  ((0 : BitVec 55) ++ BitVec.ofBool s) ++ opc

/-- The word of a command (R52). A format N word has 0 at bit 8. -/
def encode : Instr → Word
  | .gf2Apply s => wordOfFields (bitOfSlot s) 0x01
  | .gf2Square s => wordOfFields (bitOfSlot s) 0x02
  | .zopBase s => wordOfFields (bitOfSlot s) 0x03
  | .zopSeed => wordOfFields false 0x04
  | .crc64Combine => wordOfFields false 0x05
  | .adler32Combine => wordOfFields false 0x06

end Sys2Proof
end

