-- ==== Sys2Proof/Machine/State.lean ====
section
/-!
DEFINITION. The state of one block (10_state.md R14: seven registers and two slots of 64 rows, 135 words), the port
through which the host reaches it, the state after reset (R29), and the reasons for which a step can stop (none).
-/

namespace Sys2Proof.Machine

/-- One block and its port. The first nine fields are the complete architectural state of R14; the last three are the
model's own. -/
structure State where
  /-- CMD (R17) -/
  cmd : Word
  /-- STATUS (R18): its fields are read with the accessors of Machine/Flags.lean -/
  status : Word
  /-- POLY (R15) -/
  poly : Word
  /-- OPA (R15) -/
  opa : Word
  /-- OPB (R15) -/
  opb : Word
  /-- LEN (R15), signed (R11) -/
  len : Word
  /-- RES (R15) -/
  res : Word
  /-- slot M0 (R19) -/
  m0 : GF2Matrix
  /-- slot M1 (R19) -/
  m1 : GF2Matrix
  /-- the events that will reach the port, in port order (R32, R41); the model's own field, log 1 -/
  pending : List HostEvent
  /-- the answer to the event just taken (R33); the model's own field, log 3 -/
  response : Option Response
  /-- how many unspecified values have been drawn (U1); the model's own field, log 4 -/
  draws : Nat
deriving DecidableEq, Repr

/-- The matrix of all-zero rows (R29). -/
def zeroMatrix : GF2Matrix := Vector.replicate 64 0

/-- R29: every bit of the 135 words is 0. The port presents nothing yet and has answered nothing (log 1, 3, 4). -/
def State.reset : State where
  cmd := 0
  status := 0
  poly := 0
  opa := 0
  opb := 0
  len := 0
  res := 0
  m0 := zeroMatrix
  m1 := zeroMatrix
  pending := []
  response := none
  draws := 0

/-- The errors a command can end with (60_exceptions.md R101). They are reported in STATUS and are next states. -/
inductive CommandError where
  /-- LEN is negative on a combine (R102) -/
  | invalidLength
  /-- the command word is none of the nine (R103) -/
  | illegalCommand
deriving DecidableEq, Repr

/-- Reasons for which the machine stops: there is none. A command error is reported in STATUS (R102, R103), a bus error
in the response (R38), and "Nothing in the block is `stuck`" (93_implementation_defined.md, after U15; R131). No
constructor, so nothing raises a fault; this is safe. -/
inductive Fault where
deriving DecidableEq, Repr

/-- Reasons for which the model has no meaning for an instruction. -/
inductive Refusal where
  /-- Raised by an arm of `exec` whose instruction has no meaning yet; no arm raises it now. Safe: the run stops. -/
  | notModelled (mnemonic : String)
deriving DecidableEq, Repr

end Sys2Proof.Machine
end

