-- ==== Sys2Proof/Machine/Flags.lean ====
section
/-!
DEFINITION. STATUS: its fields (10_state.md R18), the four values a command can leave in it (R25) and the error codes
(60_exceptions.md R101).
-/

namespace Sys2Proof.Machine

/-- DONE, bit 0 (R18). -/
def statusDone (w : Word) : Bool := w.getLsbD 0

/-- ERR, bit 1 (R18). -/
def statusErr (w : Word) : Bool := w.getLsbD 1

/-- UNRED, bit 2 (R18). -/
def statusUnred (w : Word) : Bool := w.getLsbD 2

/-- ECODE, bits 7:4 (R18). -/
def statusEcode (w : Word) : BitVec 4 := w.extractLsb' 4 4

/-- STATUS from its fields; bits 63:8 and bit 3 are zero (R18). -/
def statusWord (done err unred : Bool) (ecode : BitVec 4) : Word :=
  (0 : BitVec 56) ++ ecode ++ (0 : BitVec 1) ++ BitVec.ofBool unred ++ BitVec.ofBool err ++ BitVec.ofBool done

/-- ECODE of an error (R18, R101). -/
def ecodeOf : CommandError → BitVec 4
  | .invalidLength => 1
  | .illegalCommand => 2

/-- STATUS after a success: 0x01, or 0x05 when `ADLER32.COMBINE` had an input that was not reduced (R25). -/
def successStatus (unred : Bool) : Word := statusWord true false unred 0

/-- STATUS after a command error: 0x13 or 0x23 (R25, R101). -/
def errorStatus (e : CommandError) : Word := statusWord true true false (ecodeOf e)

end Sys2Proof.Machine
end

