-- ==== Sys2Proof/Machine/Gf2.lean ====
section
/-!
DEFINITION. The three pure functions on matrices: `apply` (40_gf2_matrix.md R60), `square` (R64) and `build_base`
(41_zero_operator.md R70).
-/

namespace Sys2Proof.Machine

/-- `apply(m, v)` (R60): scan the rows from bit 0 upward and XOR together those whose bit of `v` is set, starting from
0. The early exit of R61 (b) changes time only and is left out. -/
def apply (m : GF2Matrix) (v : Word) : Word :=
  m.toList.zipIdx.foldl (fun acc row => if v.getLsbD row.2 then acc ^^^ row.1 else acc) 0

/-- `square(m)` (R64): row i is `apply(m, m[i])`; every row is computed from `m` as it was given. -/
def square (m : GF2Matrix) : GF2Matrix := Vector.ofFn fun i => apply m m[i]

/-- `build_base(p)` (R70): row 0 is `p`, row i has exactly bit i-1 set. -/
def buildBase (p : Word) : GF2Matrix :=
  Vector.ofFn fun i => if i.val = 0 then p else (1 : Word) <<< (i.val - 1)

end Sys2Proof.Machine
end

