-- ==== Sys2Proof/Machine/Operands.lean ====
section
/-!
DEFINITION. The operands of the commands: the slot field S and the slot it leaves free (30_encoding.md R53), and the
implicit operands, each a named register (R54).
-/

namespace Sys2Proof.Machine

/-- The slot `1 - S` (R53). -/
def otherSlot : Slot → Slot
  | .m0 => .m1
  | .m1 => .m0

/-- The slot with index `k mod 2` (R82, the `d` of the ladder). -/
def slotOfParity (k : Nat) : Slot := if k % 2 = 0 then .m0 else .m1

/-- `M[s]` read as a whole (R10). -/
def slot (sl : Slot) (s : State) : GF2Matrix :=
  match sl with
  | .m0 => s.m0
  | .m1 => s.m1

/-- `vector` of `GF2.APPLY` (R54): OPA. -/
def vectorOperand (s : State) : Word := s.opa

/-- `polynomial` (R54): POLY, any 64-bit value (R6). -/
def polynomialOperand (s : State) : Word := s.poly

/-- `crc1` (R54): OPA. -/
def crc1Operand (s : State) : Word := s.opa

/-- `crc2` (R54): OPB. -/
def crc2Operand (s : State) : Word := s.opb

/-- `adler1` (R54, R95): OPA[31:0]. -/
def adler1Operand (s : State) : BitVec 32 := s.opa.extractLsb' 0 32

/-- `adler2` (R54, R95): OPB[31:0]. -/
def adler2Operand (s : State) : BitVec 32 := s.opb.extractLsb' 0 32

/-- `len2` (R54): LEN. -/
def lenOperand (s : State) : Word := s.len

/-- LEN is negative exactly when LEN[63] = 1 (R11, R79, R90). -/
def lenNegative (s : State) : Bool := (lenOperand s).getLsbD 63

/-- `low16` (R8): bits 15:0. -/
def low16 (v : BitVec 32) : BitVec 16 := v.extractLsb' 0 16

/-- `high16` (R8): bits 31:16. -/
def high16 (v : BitVec 32) : BitVec 16 := v.extractLsb' 16 16

end Sys2Proof.Machine
end

