-- ==== Sys2Proof/Machine/Ops.lean ====
section
/-!
DEFINITION. The named operations over the registers: writing a slot, ending a command (with success or by raising an
error), the register window (20_memory.md R34, R39), and reset (70_reset_and_hazards.md R119).

Taking an exception: the block has no trap (60_exceptions.md R100), so raising a command error is the whole of error
entry (R106) and there is no return from one (R108).
-/

namespace Sys2Proof.Machine

/-- `M[s] <- m`: all 64 rows (R10). -/
def writeSlot (sl : Slot) (m : GF2Matrix) (s : State) : State :=
  match sl with
  | .m0 => { s with m0 := m }
  | .m1 => { s with m1 := m }

/-- `M[s][i] <- v` (R10). -/
def writeRow (sl : Slot) (i : Fin 64) (v : Word) (s : State) : State :=
  writeSlot sl ((slot sl s).set i v) s

/-- `RES <- v`. -/
def writeRes (v : Word) (s : State) : State := { s with res := v }

/-- A command ends with success: all of STATUS is written (R25). -/
def succeed (unred : Bool) (s : State) : State := { s with status := successStatus unred }

/-- `raise`: a command ends with an error. STATUS is written, nothing else changes (R102, R103, R106); CMD already
holds the command word (R48). -/
def raise (e : CommandError) (s : State) : State := { s with status := errorStatus e }

/-- The offset of a register (R34). -/
def offsetOf : WindowReg → Offset
  | .cmd => 0x000
  | .status => 0x008
  | .poly => 0x010
  | .opa => 0x018
  | .opb => 0x020
  | .len => 0x028
  | .res => 0x030
  | .row .m0 i => BitVec.ofNat 12 (0x200 + 8 * i.val)
  | .row .m1 i => BitVec.ofNat 12 (0x400 + 8 * i.val)

/-- The register at an offset (R34); none where the access is a bus error for reads and writes: a misaligned or an
unmapped offset (R38). -/
def regAt (off : Offset) : Option WindowReg :=
  let n := off.toNat
  if n % 8 ≠ 0 then none
  else if n = 0x000 then some .cmd
  else if n = 0x008 then some .status
  else if n = 0x010 then some .poly
  else if n = 0x018 then some .opa
  else if n = 0x020 then some .opb
  else if n = 0x028 then some .len
  else if n = 0x030 then some .res
  else if h : 0x200 ≤ n ∧ n < 0x400 then some (.row .m0 ⟨(n - 0x200) / 8, by omega⟩)
  else if h : 0x400 ≤ n ∧ n < 0x600 then some (.row .m1 ⟨(n - 0x400) / 8, by omega⟩)
  else none

/-- The value of a register (R35). -/
def readReg (r : WindowReg) (s : State) : Word :=
  match r with
  | .cmd => s.cmd
  | .status => s.status
  | .poly => s.poly
  | .opa => s.opa
  | .opb => s.opb
  | .len => s.len
  | .res => s.res
  | .row sl i => (slot sl s)[i]

/-- The state after the host stores into a register (R36; for CMD, only the setting of CMD in R37); none for the
read-only STATUS and RES (R38). -/
def storeReg (r : WindowReg) (v : Word) (s : State) : Option State :=
  match r with
  | .cmd => some { s with cmd := v }
  | .status => none
  | .poly => some { s with poly := v }
  | .opa => some { s with opa := v }
  | .opb => some { s with opb := v }
  | .len => some { s with len := v }
  | .res => none
  | .row sl i => some (writeRow sl i v s)

/-- The block's answer stands at the port (R32, R33). -/
def answer (r : Response) (s : State) : State := { s with response := some r }

/-- Byte lane b of a register: bits 8b+7..8b (R39). -/
def byteLane (v : Word) (b : Nat) : Byte := v.extractLsb' (8 * b) 8

/-- The byte at a bus address when the platform puts the window on a byte-addressed bus (R39): lane b of the register at
`off` for the address BASE + off + b; none outside the window and where no register is mapped. -/
def windowByte (s : State) (addr : Nat) : Option Byte :=
  if Config.base ≤ addr ∧ addr < Config.base + Config.windowBytes then
    let n := addr - Config.base
    match regAt (BitVec.ofNat 12 (n - n % 8)) with
    | some r => some (byteLane (readReg r s) (n % 8))
    | none => none
  else none

/-- Reset (R29, R119): the 135 words become 0 and no response stands at the port. What the host will present next and
the count of drawn values belong to the environment and stay (log 5). -/
def resetBlock (s : State) : State :=
  { State.reset with pending := s.pending, draws := s.draws }

end Sys2Proof.Machine
end

