-- ==== Sys2Proof/Machine/Adler32Combine.lean ====
section
/-!
DEFINITION. ADLER32.COMBINE (43_adler32_combine.md): the closed form with bounded subtractions, over the unbounded
non-negative integers (00_scope.md R9).
-/

namespace Sys2Proof.Machine

/-- M = 65521 (R5, R91). -/
abbrev modulus : Nat := Config.adlerModulus

/-- `if x >= m then x <- x - m` (R91). -/
def subtractOnce (m x : Nat) : Nat := if m ≤ x then x - m else x

/-- `rem <- LEN mod M` (R91). -/
def adlerRem (len2 : Word) : Nat := len2.toNat % modulus

/-- `sum1` before the conditional subtractions (R91, R92). -/
def adlerSum1Before (a1 a2 : BitVec 32) : Nat :=
  (low16 a1).toNat + (low16 a2).toNat + modulus - 1

/-- `sum2` before the conditional subtractions (R91, R92). -/
def adlerSum2Before (a1 a2 : BitVec 32) (rem : Nat) : Nat :=
  rem * (low16 a1).toNat % modulus + (high16 a1).toNat + (high16 a2).toNat + modulus - rem

/-- `sum1` after "subtracting M up to twice" (R91). -/
def adlerSum1 (a1 a2 : BitVec 32) : Nat :=
  subtractOnce modulus (subtractOnce modulus (adlerSum1Before a1 a2))

/-- `sum2` after "subtracting 2M once if needed, then M once if needed" (R91). -/
def adlerSum2 (a1 a2 : BitVec 32) (rem : Nat) : Nat :=
  subtractOnce modulus (subtractOnce (2 * modulus) (adlerSum2Before a1 a2 rem))

/-- `r` (R91, R93): the low 32 bits of `sum1 | (sum2 << 16)`. -/
def adlerCombine (a1 a2 : BitVec 32) (len2 : Word) : BitVec 32 :=
  BitVec.ofNat 32 (adlerSum1 a1 a2 ||| (adlerSum2 a1 a2 (adlerRem len2) <<< 16))

/-- A half is not reduced: 65521 or more (R96). -/
def halfUnreduced (h : BitVec 16) : Bool := modulus ≤ h.toNat

/-- `unred` (R91, R96): some half of an input is not reduced. -/
def adlerUnreduced (a1 a2 : BitVec 32) : Bool :=
  halfUnreduced (low16 a1) || halfUnreduced (high16 a1) || halfUnreduced (low16 a2) || halfUnreduced (high16 a2)

/-- `ADLER32.COMBINE` (R91): InvalidLength if LEN is negative (R90); otherwise RES <- zext_64(r) and STATUS <- 0x01, or
0x05 if an input was not reduced (R96). -/
def execAdler32Combine (s : State) : Host.Outcome State Fault Refusal :=
  if lenNegative s then .next (raise .invalidLength s)
  else
    let a1 := adler1Operand s
    let a2 := adler2Operand s
    .next (succeed (adlerUnreduced a1 a2) (writeRes ((adlerCombine a1 a2 (lenOperand s)).setWidth 64) s))

end Sys2Proof.Machine
end

