-- ==== Sys2Proof/Machine/ZeroOperator.lean ====
section
/-!
DEFINITION. ZOP.BASE and ZOP.SEED (41_zero_operator.md).
-/

namespace Sys2Proof.Machine

/-- `ZOP.BASE S` (R72): M[S] <- build_base(POLY); STATUS <- 0x01. -/
def execZopBase (sl : Slot) (s : State) : Host.Outcome State Fault Refusal :=
  .next (succeed false (writeSlot sl (buildBase (polynomialOperand s)) s))

/-- The operators `ZOP.SEED` builds (R74): B^2 for M0 and B^4 for M1. -/
def seedOperators (p : Word) : GF2Matrix × GF2Matrix :=
  let power2 := square (buildBase p)
  (power2, square power2)

/-- `ZOP.SEED` (R74): M0 <- B^2, M1 <- B^4; STATUS <- 0x01. B itself does not survive in M1. -/
def execZopSeed (s : State) : Host.Outcome State Fault Refusal :=
  let ops := seedOperators (polynomialOperand s)
  .next (succeed false (writeSlot .m1 ops.2 (writeSlot .m0 ops.1 s)))

end Sys2Proof.Machine
end

