-- ==== Sys2Proof/Machine/Crc64Combine.lean ====
section
/-!
DEFINITION. CRC64.COMBINE (42_crc64_combine.md): the squaring ladder over the bits of LEN.
-/

namespace Sys2Proof.Machine

/-- The temporaries of the ladder (R82): the two slots, `acc`, `n` and `k`. -/
structure Ladder where
  m0 : GF2Matrix
  m1 : GF2Matrix
  acc : Word
  n : Word
  k : Nat
deriving DecidableEq, Repr

/-- One round (R81, R82): square the other slot into slot d = k mod 2, apply it if the low bit of n is 1, shift n. -/
def ladderRound (l : Ladder) : Ladder :=
  match slotOfParity l.k with
  | .m0 =>
    let m := square l.m1
    { l with m0 := m, acc := if l.n.getLsbD 0 then apply m l.acc else l.acc, n := l.n >>> 1, k := l.k + 1 }
  | .m1 =>
    let m := square l.m0
    { l with m1 := m, acc := if l.n.getLsbD 0 then apply m l.acc else l.acc, n := l.n >>> 1, k := l.k + 1 }

/-- The loop (R82): the test is after the round, so one round always runs. `fuel` bounds the further rounds; n is below
2^63 and loses a bit each round, so 62 further rounds are enough (R84). -/
def ladderLoop : Nat → Ladder → Ladder
  | 0, l => ladderRound l
  | fuel + 1, l => if (ladderRound l).n = 0 then ladderRound l else ladderLoop fuel (ladderRound l)

/-- The state of the ladder before round 0 (R82): seeded slots, `acc` = crc1, `n` = len2, `k` = 0. -/
def ladderStart (p crc1 len2 : Word) : Ladder where
  m0 := (seedOperators p).1
  m1 := (seedOperators p).2
  acc := crc1
  n := len2
  k := 0

/-- The whole ladder for a length below 2^63 (R82, R84: at most 63 rounds). -/
def crcLadder (p crc1 len2 : Word) : Ladder := ladderLoop 62 (ladderStart p crc1 len2)

/-- `CRC64.COMBINE` (R82): InvalidLength if LEN is negative, before anything is written (R79); otherwise the ladder,
RES <- acc ^ OPB, both slots left as the ladder leaves them (R85), STATUS <- 0x01. -/
def execCrc64Combine (s : State) : Host.Outcome State Fault Refusal :=
  if lenNegative s then .next (raise .invalidLength s)
  else
    let l := crcLadder (polynomialOperand s) (crc1Operand s) (lenOperand s)
    .next (succeed false (writeRes (l.acc ^^^ crc2Operand s) (writeSlot .m1 l.m1 (writeSlot .m0 l.m0 s))))

end Sys2Proof.Machine
end

