-- ==== Sys2Proof/Machine/MatrixCommands.lean ====
section
/-!
DEFINITION. GF2.APPLY and GF2.SQUARE (40_gf2_matrix.md).
-/

namespace Sys2Proof.Machine

/-- `GF2.APPLY S` (R62): RES <- apply(M[S], OPA); STATUS <- 0x01. -/
def execGf2Apply (sl : Slot) (s : State) : Host.Outcome State Fault Refusal :=
  .next (succeed false (writeRes (apply (slot sl s) (vectorOperand s)) s))

/-- `GF2.SQUARE S` (R66): M[1-S] <- square(M[S]); STATUS <- 0x01. -/
def execGf2Square (sl : Slot) (s : State) : Host.Outcome State Fault Refusal :=
  .next (succeed false (writeSlot (otherSlot sl) (square (slot sl s)) s))

end Sys2Proof.Machine
end

