-- ==== Sys2Proof/Machine/Dispatch.lean ====
section
/-!
DEFINITION. The meaning of every command, one arm each (30_encoding.md R52).
-/

namespace Sys2Proof.Machine

def exec (i : Instr) (s : State) : Host.Outcome State Fault Refusal :=
  match i with
  | .gf2Apply sl => Sys2Proof.Machine.execGf2Apply sl s
  | .gf2Square sl => Sys2Proof.Machine.execGf2Square sl s
  | .zopBase sl => Sys2Proof.Machine.execZopBase sl s
  | .zopSeed => Sys2Proof.Machine.execZopSeed s
  | .crc64Combine => Sys2Proof.Machine.execCrc64Combine s
  | .adler32Combine => Sys2Proof.Machine.execAdler32Combine s

end Sys2Proof.Machine
end

