-- ==== Sys2Proof/Machine/Bus.lean ====
section
/-!
DEFINITION. The host port: one event of the port is one step of the block (20_memory.md R33, R35 to R38;
30_encoding.md R48; 70_reset_and_hazards.md R119, R120).
-/

namespace Sys2Proof.Machine

/-- Go on from a next state; a fault or a refusal passes through. -/
def onNext (f : State → State) : Host.Outcome State Fault Refusal → Host.Outcome State Fault Refusal
  | .next s => .next (f s)
  | .fault r => .fault r
  | .refused r => .refused r

/-- Steps (1) to (4) of R48: CMD takes the word, the word is decoded, and the command runs to its end or raises its
error. An illegal word raises IllegalCommand whatever LEN holds (R55, R103, R105). -/
def runCommand (w : Word) (s : State) : Host.Outcome State Fault Refusal :=
  match decode w with
  | .command i => exec i { s with cmd := w }
  | .illegal _ => .next (raise .illegalCommand { s with cmd := w })

/-- `BusRead(off)`: OKAY and the value (R35), or ERROR and an unspecified value (R38, U1; log 4). -/
def busRead (off : Offset) (s : State) : State :=
  match regAt off with
  | some r => answer (.read .okay (readReg r s)) s
  | none => answer (.read .error (Config.errorReadData s.draws)) { s with draws := s.draws + 1 }

/-- `BusWrite(off, data, strb)`: ERROR and no change in the cases of R38; a write to CMD runs a command and is answered
OKAY when it has ended, also when it ended with an error (R37, R100); any other write sets its register (R36). -/
def busWrite (off : Offset) (data : Word) (strb : Strobe) (s : State) : Host.Outcome State Fault Refusal :=
  if strb = 0xFF then
    match regAt off with
    | none => .next (answer (.write .error) s)
    | some .cmd => onNext (answer (.write .okay)) (runCommand data s)
    | some r =>
      match storeReg r data s with
      | some t => .next (answer (.write .okay) t)
      | none => .next (answer (.write .error) s)
  else .next (answer (.write .error) s)

/-- One transaction, start to end (R33). -/
def transact (t : Transaction) (s : State) : Host.Outcome State Fault Refusal :=
  match t with
  | .busRead off => .next (busRead off s)
  | .busWrite off data strb => busWrite off data strb s

/-- One event of the port. A reset gives no response, and so does a transaction it abandons, whatever part of a command
had run (R119, R120). -/
def portEvent (e : HostEvent) (s : State) : Host.Outcome State Fault Refusal :=
  match e with
  | .request t => transact t s
  | .reset => .next (resetBlock s)
  | .resetDuring _ => .next (resetBlock s)

/-- What the block does in one step: it takes the next event of the port; with none it waits, and no response stands at
the port (R13, R30). -/
def portStep (s : State) : Host.Outcome State Fault Refusal :=
  match s.pending with
  | [] => .next { s with response := none }
  | e :: rest => portEvent e { s with pending := rest }

/-- The transaction that is the command with word `w`: `BusWrite(0x000, w, 0xFF)` (R48). -/
def commandWrite (w : Word) : Transaction := .busWrite (offsetOf .cmd) w 0xFF

/-- The host presents the command word next (R48; log 2). -/
def presentCommand (w : Word) (s : State) : State :=
  { s with pending := .request (commandWrite w) :: s.pending }

end Sys2Proof.Machine
end

