-- ==== Sys2Proof/Machine/Step.lean ====
section
/-!
DEFINITION. The step of the machine, and how an instruction word is placed where the next step takes it.
-/

namespace Sys2Proof.Machine

/-- One step: one event of the port (20_memory.md R33). -/
def step (s : State) : Host.Outcome State Fault Refusal := portStep s

/-- The state in which the next step runs the instruction with bits `w`. The block fetches nothing (10_state.md R16): a
command word is the data of the CMD write the host presents next (30_encoding.md R48; log 2). -/
def State.withFetchWord (s : State) (nbits w : Nat) : State :=
  presentCommand (BitVec.ofNat 64 (w % 2 ^ nbits)) s

end Sys2Proof.Machine
end

