-- ==== Sys2Proof/Machine/Checksum.lean ====
section
/-!
DEFINITION. The checksums of byte sequences. They are no part of the block (00_scope.md R4) and no definition of the
machine uses them: they are the definitions G2 and G3 of 93_implementation_defined.md, marked there as general
knowledge, which a reader must supply to state the properties of R88 and R98 (log 13, PRESUMED).
-/

namespace Sys2Proof.Machine

/-- One zero bit through a reflected CRC register (R71): shift right, XOR in `p` if the bit shifted out is 1. -/
def clockZeroBit (p c : Word) : Word := (c >>> 1) ^^^ (if c.getLsbD 0 then p else 0)

/-- One byte through the register (G2): XOR it into the low byte, then eight one-bit steps. -/
def crcByte (p c : Word) (d : Byte) : Word := (clockZeroBit p)^[8] (c ^^^ d.setWidth 64)

/-- `crc64(p, D)` (G2): all ones at the start, inverted at the end. -/
def crc64 (p : Word) (bytes : List Byte) : Word :=
  bytes.foldl (crcByte p) (BitVec.allOnes 64) ^^^ BitVec.allOnes 64

/-- One byte of Adler-32 on the two running sums (G3). -/
def adlerByte (sums : Nat × Nat) (d : Byte) : Nat × Nat :=
  let a := (sums.1 + d.toNat) % Config.adlerModulus
  (a, (sums.2 + a) % Config.adlerModulus)

/-- `adler32(D)` (G3): `(b << 16) | a`, starting from a = 1, b = 0. -/
def adler32 (bytes : List Byte) : BitVec 32 :=
  let sums := bytes.foldl adlerByte (1, 0)
  BitVec.ofNat 32 ((sums.2 <<< 16) ||| sums.1)

end Sys2Proof.Machine
end

