-- ==== Sys2Proof/Machine/Script.lean ====
section
/-!
DEFINITION. Host scripts and the assembler spelling (30_encoding.md R57, R58): each line is one transaction.
-/

namespace Sys2Proof.Machine

/-- The slot number in a format S line (R57). -/
def slotNumeral : Slot → String
  | .m0 => "0"
  | .m1 => "1"

/-- The spelling of a command (R57): the mnemonic, and for format S one space and the slot number. -/
def spelling : Instr → String
  | .gf2Apply sl => "GF2.APPLY " ++ slotNumeral sl
  | .gf2Square sl => "GF2.SQUARE " ++ slotNumeral sl
  | .zopBase sl => "ZOP.BASE " ++ slotNumeral sl
  | .zopSeed => "ZOP.SEED"
  | .crc64Combine => "CRC64.COMBINE"
  | .adler32Combine => "ADLER32.COMBINE"

/-- The transaction of a script line (R57, R58). -/
def lineTransaction : ScriptLine → Transaction
  | .wr r v => .busWrite (offsetOf r) v 0xFF
  | .rd r => .busRead (offsetOf r)
  | .command i => commandWrite (encode i)

/-- The host presents a script: its lines top to bottom, each one transaction (R58). -/
def presentScript (lines : List ScriptLine) (s : State) : State :=
  { s with pending := lines.map (fun l => .request (lineTransaction l)) ++ s.pending }

/-- The state after one answered transaction (a transaction always completes, 70_reset_and_hazards.md R131). -/
def afterTransaction (t : Transaction) (s : State) : State :=
  match transact t s with
  | .next u => u
  | .fault _ => s
  | .refused _ => s

/-- The state after a script line. -/
def afterLine (l : ScriptLine) (s : State) : State := afterTransaction (lineTransaction l) s

/-- The data an OKAY read has just returned; `old` where no such read was answered. -/
def readData (old : Word) (s : State) : Word :=
  match s.response with
  | some (.read .okay v) => v
  | _ => old

/-- One round of the host script of 42_crc64_combine.md R86, with the block's state and the host's `acc`: square into
slot k mod 2; if n is odd, `WR OPA, acc`, `GF2.APPLY (k mod 2)`, `RD RES -> acc`. -/
def combineScriptRound (k : Nat) (n : Word) (b : State × Word) : State × Word :=
  let squared := afterLine (.command (.gf2Square (otherSlot (slotOfParity k)))) b.1
  if n.getLsbD 0 then
    let applied := afterLine (.command (.gf2Apply (slotOfParity k))) (afterLine (.wr .opa b.2) squared)
    let read := afterLine (.rd .res) applied
    (read, readData b.2 read)
  else (squared, b.2)

/-- The rounds of the script, "until n = 0" (R86), at most `fuel` + 1 of them. -/
def combineScriptRounds : Nat → Nat → Word → State × Word → State × Word
  | 0, k, n, b => combineScriptRound k n b
  | fuel + 1, k, n, b =>
    if n >>> 1 = 0 then combineScriptRound k n b
    else combineScriptRounds fuel (k + 1) (n >>> 1) (combineScriptRound k n b)

/-- The whole script of R86: `ZOP.SEED`, then the rounds with acc = OPA and n = LEN; the block's state at the end and
the host's `result = acc ^ OPB`. -/
def combineScript (s : State) : State × Word :=
  let b := combineScriptRounds 62 0 s.len (afterLine (.command .zopSeed) s, s.opa)
  (b.1, b.2 ^^^ s.opb)

end Sys2Proof.Machine
end

