-- ==== Sys2Proof/Safety.lean ====
section
/-!
DEFINITION. The terms in which claims speak of a sound block: which values STATUS can have and what they say of CMD and
RES (10_state.md R18, R25, R26), and what the host can see go wrong (60_exceptions.md R100).
-/

namespace Sys2Proof.Machine

/-- The values STATUS can have: 0 after reset, and the four of R25 ("No other value of STATUS is reachable"). -/
def reachableStatus : List Word := [0x00, 0x01, 0x05, 0x13, 0x23]

/-- STATUS tells of the command in CMD (R17, R25, R101) and RES of the last command that wrote it (R126). Every step
keeps this, and it holds after reset:
STATUS has one of its five values; before the first command CMD and RES are as reset left them; a success is one of a
legal word, UNRED one of `ADLER32.COMBINE`, InvalidLength one of the two combines, IllegalCommand one of an illegal word;
and after a successful `ADLER32.COMBINE` bits 63:32 of RES are 0 (43_adler32_combine.md R93). -/
abbrev Consistent (s : State) : Prop :=
  s.status ∈ reachableStatus ∧
  (s.status = 0x00 → s.cmd = 0 ∧ s.res = 0) ∧
  (s.status = 0x01 → legalWord s.cmd = true) ∧
  (s.status = 0x05 → s.cmd = 0x006) ∧
  (s.status = 0x13 → s.cmd = 0x005 ∨ s.cmd = 0x006) ∧
  (s.status = 0x23 → legalWord s.cmd = false) ∧
  ((s.status = 0x01 ∨ s.status = 0x05) → s.cmd = 0x006 → s.res.toNat < 2 ^ 32)

/-- The last transaction was a bus error (R38, R100 (2)). -/
def busErrorSeen (s : State) : Bool :=
  match s.response with
  | some (.read .error _) => true
  | some (.write .error) => true
  | _ => false

/-- The last command ended with success (R25, R101). -/
def commandSucceeded (s : State) : Bool := statusDone s.status && !statusErr s.status

/-- The event that reaches the port in this step, if any. -/
def nextEvent (s : State) : Option HostEvent := s.pending.head?

/-- The event is a reset, between transactions or during one (R119, R120). -/
def isReset : HostEvent → Bool
  | .request _ => false
  | .reset => true
  | .resetDuring _ => true

end Sys2Proof.Machine
end

