-- ==== Sys2Proof/Certificates/Slice0/Obligations.lean ====
section
/-!
DEFINITION. The statements for the provers. Each docstring names the rule of spec/ it formalises; "derived" ones say
what they rest on.

`transact t s` is one transaction (20_memory.md R33); Obligations.StepTakesTheOldestEvent says how a step runs it.
-/

open Sys2Proof Sys2Proof.Machine

/-! ## Encoding (30_encoding.md) -/

/-- Decode and encode agree (R51, R52): a word decodes to a command exactly when it is that command's word. -/
def Obligations.DecodeReadsExactlyTheEncodedWord : Prop :=
  ∀ (w : Word) (i : Instr), decode w = .command i ↔ w = encode i

/-- R51, its pseudocode read on the number `w`: OPC is `w mod 256`, S the next bit, Z what is above. -/
def Obligations.DecodeFollowsOpcSlotAndZero : Prop :=
  ∀ w : Word,
    let opc := w.toNat % 256
    let S := w.toNat / 256 % 2
    let Z := w.toNat / 512
    let sl : Slot := if S = 0 then .m0 else .m1
    (Z ≠ 0 → ∃ why, decode w = .illegal why) ∧
    (Z = 0 → opc = 1 → decode w = .command (.gf2Apply sl)) ∧
    (Z = 0 → opc = 2 → decode w = .command (.gf2Square sl)) ∧
    (Z = 0 → opc = 3 → decode w = .command (.zopBase sl)) ∧
    (Z = 0 → opc = 4 → S = 0 → decode w = .command .zopSeed) ∧
    (Z = 0 → opc = 5 → S = 0 → decode w = .command .crc64Combine) ∧
    (Z = 0 → opc = 6 → S = 0 → decode w = .command .adler32Combine) ∧
    (Z = 0 → opc ∈ [4, 5, 6] → S = 1 → ∃ why, decode w = .illegal why) ∧
    (Z = 0 → opc ∉ [1, 2, 3, 4, 5, 6] → ∃ why, decode w = .illegal why)

/-- The nine words of R52, written out, decode to the commands they stand for. -/
def Obligations.NineLegalWordsDecode : Prop :=
  decode 0x001 = .command (.gf2Apply .m0) ∧ decode 0x101 = .command (.gf2Apply .m1) ∧
  decode 0x002 = .command (.gf2Square .m0) ∧ decode 0x102 = .command (.gf2Square .m1) ∧
  decode 0x003 = .command (.zopBase .m0) ∧ decode 0x103 = .command (.zopBase .m1) ∧
  decode 0x004 = .command .zopSeed ∧ decode 0x005 = .command .crc64Combine ∧
  decode 0x006 = .command .adler32Combine

/-- R55 and R103: the illegal words are those of R55's four conditions, all but nine; writing one to CMD sets CMD and
STATUS, is answered OKAY and changes nothing else, whatever LEN holds (R105). -/
def Obligations.IllegalWordSetsCmdAndStatusOnly : Prop :=
  (∀ w : Word,
    let illegal := w.extractLsb' 9 55 ≠ 0 ∨ w.extractLsb' 0 8 = 0x00 ∨ 0x07 ≤ (w.extractLsb' 0 8).toNat ∨
      (w.extractLsb' 0 8 ∈ [(0x04 : BitVec 8), 0x05, 0x06] ∧ w.getLsbD 8 = true)
    (¬ illegal ↔ w ∈ legalWords) ∧
    (illegal → ∀ s : State,
      transact (.busWrite 0x000 w 0xFF) s =
        .next { s with cmd := w, status := 0x23, response := some (.write .okay) })) ∧
  legalWords.Nodup ∧ legalWords.length = 9

/-! ## The step and the port (20_memory.md, 70_reset_and_hazards.md) -/

/-- R48 in the model's own terms: with a CMD write of a word that decodes to `i` at the port, the step is `exec i` with
CMD already set to the word, answered OKAY. -/
def Obligations.StepRunsTheDecodedCommand : Prop :=
  ∀ (s : State) (w : Word) (i : Instr) (rest : List HostEvent),
    s.pending = .request (.busWrite 0x000 w 0xFF) :: rest → decode w = .command i →
      step s = onNext (answer (.write .okay)) (exec i { s with cmd := w, pending := rest })

/-- The step takes the oldest event of the port; it is the step of that event (R33, R41). That the host's events stand in
a list of the state is the model's choice, log 1. -/
def Obligations.StepTakesTheOldestEvent : Prop :=
  ∀ (s : State) (e : HostEvent) (rest : List HostEvent), s.pending = e :: rest →
    step s = portEvent e { s with pending := rest } ∧
    ∀ t : Transaction, e = .request t → step s = transact t { s with pending := rest }

/-- R13 ("Between two bus transactions the block's state does not change") and R30; that no response stands at the port
then is the model's choice, log 3. -/
def Obligations.WaitingBlockKeepsItsState : Prop :=
  ∀ s : State, s.pending = [] → step s = .next { s with response := none }

/-- R29: in the reset state, and after a reset in any state, every register and every slot row is 0, and both slots hold
the zero map. -/
def Obligations.ResetClearsEveryRegister : Prop :=
  (∀ r : WindowReg, readReg r State.reset = 0) ∧
  ∀ s : State, ∃ t : State, portEvent .reset s = .next t ∧
    (∀ r : WindowReg, readReg r t = 0) ∧ ∀ v : Word, apply t.m0 v = 0 ∧ apply t.m1 v = 0

/-- R120: a transaction the block had taken when reset came gets no response, and the state is the all-zero state,
whatever the transaction was. -/
def Obligations.ResetAbandonsTheTransaction : Prop :=
  ∀ (s : State) (t : Transaction), ∃ u : State, portEvent (.resetDuring t) s = .next u ∧
    (∀ r : WindowReg, readReg r u = 0) ∧ u.response = none ∧ portEvent .reset s = .next u

/-- R35 at the offsets of R34: a read of a mapped register is answered OKAY with its value and changes no register, so
that a second read gives the same. -/
def Obligations.GoodReadReturnsTheRegister : Prop :=
  ∀ s : State,
    let gives (off : Offset) (v : Word) : Prop :=
      transact (.busRead off) s = .next { s with response := some (.read .okay v) }
    gives 0x000 s.cmd ∧ gives 0x008 s.status ∧ gives 0x010 s.poly ∧ gives 0x018 s.opa ∧ gives 0x020 s.opb ∧
    gives 0x028 s.len ∧ gives 0x030 s.res ∧
    ∀ i : Fin 64, gives (BitVec.ofNat 12 (0x200 + 8 * i.val)) s.m0[i] ∧
      gives (BitVec.ofNat 12 (0x400 + 8 * i.val)) s.m1[i]

/-- R36 at the offsets of R34: a full write of POLY, OPA, OPB, LEN or a slot row is answered OKAY, sets that register and
changes nothing else. -/
def Obligations.GoodWriteSetsOneRegister : Prop :=
  ∀ (s : State) (data : Word),
    let done (t : State) : State := { t with response := some (.write .okay) }
    transact (.busWrite 0x010 data 0xFF) s = .next (done { s with poly := data }) ∧
    transact (.busWrite 0x018 data 0xFF) s = .next (done { s with opa := data }) ∧
    transact (.busWrite 0x020 data 0xFF) s = .next (done { s with opb := data }) ∧
    transact (.busWrite 0x028 data 0xFF) s = .next (done { s with len := data }) ∧
    ∀ i : Fin 64,
      (∃ m : GF2Matrix, transact (.busWrite (BitVec.ofNat 12 (0x200 + 8 * i.val)) data 0xFF) s =
          .next (done { s with m0 := m }) ∧
        ∀ j : Fin 64, m[j] = if j = i then data else s.m0[j]) ∧
      ∃ m : GF2Matrix, transact (.busWrite (BitVec.ofNat 12 (0x400 + 8 * i.val)) data 0xFF) s =
          .next (done { s with m1 := m }) ∧
        ∀ j : Fin 64, m[j] = if j = i then data else s.m1[j]

/-- R38: in each of its four cases the answer is ERROR and no state of the block changes (not CMD, not STATUS). The data
of an ERROR read is some value `v`, about which nothing is said (log 4: with it a counter of the model moves). -/
def Obligations.BadAccessGetsErrorAndChangesNothing : Prop :=
  ∀ (s : State) (off : Offset),
    let n := off.toNat
    let bad := n % 8 ≠ 0 ∨ (0x038 ≤ n ∧ n ≤ 0x1FF) ∨ (0x600 ≤ n ∧ n ≤ 0xFFF)
    (bad → ∃ (v : Word) (draws : Nat),
      transact (.busRead off) s = .next { s with response := some (.read .error v), draws := draws }) ∧
    ∀ (data : Word) (strb : Strobe), bad ∨ strb ≠ 0xFF ∨ n = 0x008 ∨ n = 0x030 →
      transact (.busWrite off data strb) s = .next { s with response := some (.write .error) }

/-- A transaction is answered with an error exactly when it is not well formed, that is in the cases of R38, whatever the
state and whatever a command word it carries. -/
def Obligations.ErrorResponseIffIllFormed : Prop :=
  ∀ (s u : State) (t : Transaction), transact t s = .next u → (busErrorSeen u = true ↔ t.wellFormed = false)

/-- R131: every step completes. That it takes one event and leaves the later ones is the model's choice: the events stand in
a list (log 1), and a reset leaves the later ones as they are (log 5). -/
def Obligations.EveryStepCompletes : Prop :=
  ∀ s : State, ∃ t : State, step s = .next t ∧ t.pending = s.pending.tail

/-- R32, R33, R120: after a step a response stands at the port exactly when the event was a transaction that was not
abandoned; a read is answered as a read, a write as a write. -/
def Obligations.ResponseAnswersTheRequest : Prop :=
  ∀ s t : State, step s = .next t →
    ((∃ off, nextEvent s = some (.request (.busRead off))) ↔ ∃ resp v, t.response = some (.read resp v)) ∧
    ((∃ off data strb, nextEvent s = some (.request (.busWrite off data strb))) ↔
      ∃ resp, t.response = some (.write resp))

/-- R39: on a byte-addressed bus the byte at BASE + off + b is bits 8b+7..8b of the register at off. -/
def Obligations.WindowBytesAreLittleEndian : Prop :=
  ∀ (s : State) (r : WindowReg) (b : Nat), b < 8 →
    ∃ v, windowByte s (Config.base + (offsetOf r).toNat + b) = some v ∧
      ∀ j < 8, v.getLsbD j = (readReg r s).getLsbD (8 * b + j)

/-- R58: a line of a host script is one good transaction, and a mnemonic is the CMD write of its word (R57). -/
def Obligations.ScriptLinesAreGoodTransactions : Prop :=
  (∀ l : ScriptLine, l.wellFormed = true → (lineTransaction l).wellFormed = true) ∧
  ∀ i : Instr, lineTransaction (.command i) = .busWrite 0x000 (encode i) 0xFF

/-! ## GF(2) matrices (40_gf2_matrix.md) -/

/-- R20 and R60: bit j of `apply(m, v)` is the parity of the number of i with v[i] = 1 and m[i][j] = 1. -/
def Obligations.ApplyIsTheMatrixVectorProduct : Prop :=
  ∀ (m : GF2Matrix) (v : Word) (j : Nat),
    (apply m v).getLsbD j =
      decide ((Finset.univ.filter fun i : Fin 64 => v.getLsbD i.val && m[i].getLsbD j).card % 2 = 1)

/-- R61 (c), (d), (e): the zero vector, the unit vectors, and linearity. -/
def Obligations.ApplyIsLinear : Prop :=
  ∀ m : GF2Matrix,
    apply m 0 = 0 ∧ (∀ i : Fin 64, apply m ((1 : Word) <<< i.val) = m[i]) ∧
    ∀ a b : Word, apply m (a ^^^ b) = apply m a ^^^ apply m b

/-- R61 (b): once the remaining bits of v are all zero, the rows left do not take part. -/
def Obligations.EarlyExitSkipsNothing : Prop :=
  ∀ (m m' : GF2Matrix) (v : Word) (k : Nat), v >>> k = 0 → (∀ i : Fin 64, i.val < k → m[i] = m'[i]) →
    apply m v = apply m' v

/-- R65 (b), (c), (d): the square stands for the map applied twice, so that from n zero bits it makes 2n; the zero matrix
and the identity are their own squares. -/
def Obligations.SquareComposes : Prop :=
  (∀ (m : GF2Matrix) (v : Word), apply (square m) v = apply m (apply m v)) ∧
  (∀ (p : Word) (n : Nat) (m : GF2Matrix), (∀ v : Word, apply m v = (apply (buildBase p))^[n] v) →
    ∀ v : Word, apply (square m) v = (apply (buildBase p))^[2 * n] v) ∧
  square (Vector.replicate 64 0) = Vector.replicate 64 0 ∧
  square (Vector.ofFn fun i : Fin 64 => (1 : Word) <<< i.val) = Vector.ofFn fun i : Fin 64 => (1 : Word) <<< i.val

/-- R62, with its words and corner cases: `GF2.APPLY S` writes RES and STATUS and nothing else. -/
def Obligations.Gf2ApplyWritesRes : Prop :=
  encode (.gf2Apply .m0) = 0x001 ∧ encode (.gf2Apply .m1) = 0x101 ∧
  ∀ s : State,
    exec (.gf2Apply .m0) s = .next { s with res := apply s.m0 s.opa, status := 0x01 } ∧
    exec (.gf2Apply .m1) s = .next { s with res := apply s.m1 s.opa, status := 0x01 } ∧
    (s.opa = 0 → apply s.m0 s.opa = 0 ∧ apply s.m1 s.opa = 0) ∧
    (∀ i : Fin 64, s.opa = (1 : Word) <<< i.val → apply s.m0 s.opa = s.m0[i] ∧ apply s.m1 s.opa = s.m1[i]) ∧
    (s.opa = BitVec.allOnes 64 →
      apply s.m0 s.opa = s.m0.toList.foldl (· ^^^ ·) 0 ∧ apply s.m1 s.opa = s.m1.toList.foldl (· ^^^ ·) 0) ∧
    ((∀ i : Fin 64, s.m0[i] = 0) → apply s.m0 s.opa = 0) ∧
    ((∀ i : Fin 64, s.m1[i] = 0) → apply s.m1 s.opa = 0)

/-- R66 and R64: `GF2.SQUARE S` writes the other slot, row by row from the source as it was, and STATUS; nothing else.
"Squaring twice" leaves the fourth power of the first M0 in M0 and its square in M1. -/
def Obligations.Gf2SquareWritesTheOtherSlot : Prop :=
  encode (.gf2Square .m0) = 0x002 ∧ encode (.gf2Square .m1) = 0x102 ∧
  ∀ s : State,
    (∃ m : GF2Matrix, exec (.gf2Square .m0) s = .next { s with m1 := m, status := 0x01 } ∧
      ∀ i : Fin 64, m[i] = apply s.m0 s.m0[i]) ∧
    (∃ m : GF2Matrix, exec (.gf2Square .m1) s = .next { s with m0 := m, status := 0x01 } ∧
      ∀ i : Fin 64, m[i] = apply s.m1 s.m1[i]) ∧
    ∃ t u : State, exec (.gf2Square .m0) s = .next t ∧ exec (.gf2Square .m1) t = .next u ∧
      ∀ v : Word, apply u.m0 v = apply s.m0 (apply s.m0 (apply s.m0 (apply s.m0 v))) ∧
        apply u.m1 v = apply s.m0 (apply s.m0 v)

/-! ## The zero operator (41_zero_operator.md) -/

/-- R71: the base operator is one step of a right-shifting register with a zero input bit, for every polynomial. -/
def Obligations.BaseOperatorClocksOneZeroBit : Prop :=
  ∀ p c : Word, apply (buildBase p) c = (c >>> 1) ^^^ (if c.getLsbD 0 then p else 0)

/-- R72 and R70: `ZOP.BASE S` writes the rows of the base operator into slot S, and STATUS; nothing else. -/
def Obligations.ZopBaseWritesTheSlot : Prop :=
  encode (.zopBase .m0) = 0x003 ∧ encode (.zopBase .m1) = 0x103 ∧
  ∀ s : State, ∃ m : GF2Matrix,
    exec (.zopBase .m0) s = .next { s with m0 := m, status := 0x01 } ∧
    exec (.zopBase .m1) s = .next { s with m1 := m, status := 0x01 } ∧
    m[0] = s.poly ∧ ∀ i : Fin 64, 1 ≤ i.val → m[i] = (1 : Word) <<< (i.val - 1)

/-- R74: `ZOP.SEED` leaves `B^2` in M0 and `B^4` in M1, writes STATUS, and nothing else, whatever the slots held. -/
def Obligations.ZopSeedWritesTheSecondAndFourthPower : Prop :=
  encode .zopSeed = 0x004 ∧
  ∀ s : State, ∃ power2 power4 : GF2Matrix,
    exec .zopSeed s = .next { s with m0 := power2, m1 := power4, status := 0x01 } ∧
    (∀ i : Fin 64, power2[i] = apply (buildBase s.poly) (buildBase s.poly)[i]) ∧
    (∀ i : Fin 64, power4[i] = apply power2 power2[i]) ∧
    ∀ v : Word, apply power2 v = (apply (buildBase s.poly))^[2] v ∧ apply power4 v = (apply (buildBase s.poly))^[4] v

/-- R75: the three commands `ZOP.BASE 1`, `GF2.SQUARE 1`, `GF2.SQUARE 0` have the same effect, but for CMD. -/
def Obligations.ZopSeedEqualsThreeCommands : Prop :=
  ∀ s : State,
    let one := afterLine (.command .zopSeed) s
    let three := afterLine (.command (.gf2Square .m0))
      (afterLine (.command (.gf2Square .m1)) (afterLine (.command (.zopBase .m1)) s))
    one.cmd = 0x004 ∧ three.cmd = 0x002 ∧ { three with cmd := 0x004 } = one

/-- R73: row i of `B^n` for n in 1..64, that is the image of `1 << i` under B applied n times. -/
def Obligations.PowerOfBaseHasShiftedRows : Prop :=
  ∀ (p : Word) (n : Nat), 1 ≤ n → n ≤ 64 → ∀ i : Fin 64,
    (apply (buildBase p))^[n] ((1 : Word) <<< i.val) =
      if n ≤ i.val then (1 : Word) <<< (i.val - n) else (apply (buildBase p))^[n - 1 - i.val] p

/-- R73: "Two matrices that stand for the same map are equal row by row". -/
def Obligations.SameMapSameMatrix : Prop :=
  ∀ m m' : GF2Matrix, (∀ v : Word, apply m v = apply m' v) → m = m'

/-! ## CRC64.COMBINE (42_crc64_combine.md) -/

/-- R102: a combine with LEN negative sets CMD and STATUS and nothing else; the write is answered OKAY. -/
def Obligations.NegativeLengthSetsCmdAndStatusOnly : Prop :=
  ∀ s : State, s.len.getLsbD 63 = true →
    transact (.busWrite 0x000 0x005 0xFF) s =
      .next { s with cmd := 0x005, status := 0x13, response := some (.write .okay) } ∧
    transact (.busWrite 0x000 0x006 0xFF) s =
      .next { s with cmd := 0x006, status := 0x13, response := some (.write .okay) }

/-- R83: on success RES is OPA with 8*LEN zero bits clocked through the register, XORed with OPB; besides RES only the
slots and STATUS are written. -/
def Obligations.Crc64CombineClocksZeroBytes : Prop :=
  ∀ s : State, s.len.getLsbD 63 = false → ∃ t : State,
    exec .crc64Combine s = .next t ∧
    t.res = (apply (buildBase s.poly))^[8 * s.len.toNat] s.opa ^^^ s.opb ∧
    t = { s with res := t.res, m0 := t.m0, m1 := t.m1, status := 0x01 }

/-- R85: with R = max(1, bitlen(LEN)) the slot written last holds `B^(2^(R+2))`, the other `B^(2^(R+1))`. -/
def Obligations.Crc64CombineLeavesPowersInTheSlots : Prop :=
  ∀ s : State, s.len.getLsbD 63 = false → ∃ t : State, exec .crc64Combine s = .next t ∧
    let R := max 1 (Nat.size s.len.toNat)
    (∀ v : Word, apply (slot (slotOfParity (R - 1)) t) v = (apply (buildBase s.poly))^[2 ^ (R + 2)] v) ∧
    ∀ v : Word, apply (slot (otherSlot (slotOfParity (R - 1))) t) v = (apply (buildBase s.poly))^[2 ^ (R + 1)] v

/-- R83, the invariant of the ladder, with R80 and R81: what round k leaves, for every k and every length. -/
def Obligations.LadderRoundInvariant : Prop :=
  ∀ (p crc1 len2 : Word) (k : Nat),
    let B := apply (buildBase p)
    let l := ladderRound^[k + 1] (ladderStart p crc1 len2)
    let newest := if k % 2 = 0 then l.m0 else l.m1
    let older := if k % 2 = 0 then l.m1 else l.m0
    (∀ v : Word, apply newest v = B^[8 * 2 ^ k] v) ∧ (∀ v : Word, apply older v = B^[4 * 2 ^ k] v) ∧
    l.n = len2 >>> (k + 1) ∧ l.k = k + 1 ∧
    l.acc = B^[8 * (len2.toNat % 2 ^ (k + 1))] crc1

/-- R84: the loop runs max(1, bitlen(L)) rounds, at most 63. -/
def Obligations.LadderRunsOneRoundPerBit : Prop :=
  ∀ p crc1 len2 : Word, len2.getLsbD 63 = false →
    let R := max 1 (Nat.size len2.toNat)
    1 ≤ R ∧ R ≤ 63 ∧ crcLadder p crc1 len2 = ladderRound^[R] (ladderStart p crc1 len2) ∧
    ∀ k < R, k ≠ 0 → (ladderRound^[k] (ladderStart p crc1 len2)).n ≠ 0

/-- R87 (a) to (d): empty B, OPA = 0, OPB = 0, POLY = 0. -/
def Obligations.Crc64CombineCornerCases : Prop :=
  ∀ s : State, s.len.getLsbD 63 = false → ∃ t : State, exec .crc64Combine s = .next t ∧
    (s.len = 0 → t.res = s.opa ^^^ s.opb) ∧
    (s.opa = 0 → t.res = s.opb) ∧
    (s.opb = 0 → t.res = (apply (buildBase s.poly))^[8 * s.len.toNat] s.opa) ∧
    (s.poly = 0 → t.res = (s.opa >>> (8 * s.len.toNat)) ^^^ s.opb)

/-- Lengths add (V143 of 95_test_vectors.md, from R83): two combines with OPB = 0 in a row give what one combine with the
sum of the lengths gives. -/
def Obligations.Crc64CombineLengthsAdd : Prop :=
  ∀ (s : State) (l₁ l₂ : Word), l₁.toNat + l₂.toNat < 2 ^ 63 → ∃ t u w : State,
    exec .crc64Combine { s with opb := 0, len := l₁ } = .next t ∧
    exec .crc64Combine { t with opa := t.res, opb := 0, len := l₂ } = .next u ∧
    exec .crc64Combine { s with opb := 0, len := l₁ + l₂ } = .next w ∧ u.res = w.res

/-- The result is affine in the two checksums (V144 of 95_test_vectors.md, from R83). -/
def Obligations.Crc64CombineIsAffine : Prop :=
  ∀ (s : State) (x : Word), s.len.getLsbD 63 = false → ∃ t t₀ u₀ v₀ : State,
    exec .crc64Combine s = .next t ∧ exec .crc64Combine { s with opb := 0 } = .next t₀ ∧
    exec .crc64Combine { s with opa := x, opb := 0 } = .next u₀ ∧
    exec .crc64Combine { s with opa := s.opa ^^^ x, opb := 0 } = .next v₀ ∧
    t.res = t₀.res ^^^ s.opb ∧ v₀.res = t₀.res ^^^ u₀.res

/-- R86: a successful `CRC64.COMBINE` leaves M0, M1 and RES exactly as the host script of the primitive commands does,
the final XOR being the host's. -/
def Obligations.Crc64CombineEqualsItsScript : Prop :=
  ∀ s : State, s.len.getLsbD 63 = false → ∃ t : State, exec .crc64Combine s = .next t ∧
    t.m0 = (combineScript s).1.m0 ∧ t.m1 = (combineScript s).1.m1 ∧ t.res = (combineScript s).2

/-- R88 with the CRC-64 of G2 (general knowledge, log 13): from the CRC-64 of A and of B and the length of B, the CRC-64
of A followed by B, for every polynomial, also when A or B is empty. -/
def Obligations.Crc64CombineGivesCrcOfConcatenation : Prop :=
  ∀ (s : State) (a b : List Byte), b.length < 2 ^ 63 →
    s.opa = crc64 s.poly a → s.opb = crc64 s.poly b → s.len = BitVec.ofNat 64 b.length →
    ∃ t : State, exec .crc64Combine s = .next t ∧ t.res = crc64 s.poly (a ++ b) ∧ t.status = 0x01

/-! ## ADLER32.COMBINE (43_adler32_combine.md) -/

/-- R91: its word, and its pseudocode over the non-negative integers; besides RES only STATUS is written. -/
def Obligations.Adler32CombineFollowsItsPseudocode : Prop :=
  encode .adler32Combine = 0x006 ∧ ∀ s : State,
    let M := 65521
    let lo1 := s.opa.toNat % 65536
    let hi1 := s.opa.toNat / 65536 % 65536
    let lo2 := s.opb.toNat % 65536
    let hi2 := s.opb.toNat / 65536 % 65536
    let rem := s.len.toNat % M
    let sum1 := lo1 + (lo2 + M - 1)
    let sum2 := rem * lo1 % M + (hi1 + hi2 + (M - rem))
    let sum1 := if sum1 ≥ M then sum1 - M else sum1
    let sum1 := if sum1 ≥ M then sum1 - M else sum1
    let sum2 := if sum2 ≥ 2 * M then sum2 - 2 * M else sum2
    let sum2 := if sum2 ≥ M then sum2 - M else sum2
    let unred := lo1 ≥ M ∨ hi1 ≥ M ∨ lo2 ≥ M ∨ hi2 ≥ M
    (s.len.getLsbD 63 = true → exec .adler32Combine s = .next { s with status := 0x13 }) ∧
    (s.len.getLsbD 63 = false →
      exec .adler32Combine s =
        .next { s with res := BitVec.ofNat 64 ((sum1 ||| (sum2 * 65536)) % 2 ^ 32),
                       status := if unred then 0x05 else 0x01 })

/-- R94: with all four halves below M the result is the true `mod M` closed form, reduced, and STATUS is 0x01. -/
def Obligations.Adler32ReducedInputsGiveReducedOutput : Prop :=
  ∀ s : State, s.len.getLsbD 63 = false →
    let lo1 : Int := s.opa.toNat % 65536
    let hi1 : Int := s.opa.toNat / 65536 % 65536
    let lo2 : Int := s.opb.toNat % 65536
    let hi2 : Int := s.opb.toNat / 65536 % 65536
    let rem : Int := s.len.toNat % 65521
    lo1 < 65521 → hi1 < 65521 → lo2 < 65521 → hi2 < 65521 →
    ∃ t : State, exec .adler32Combine s = .next t ∧ t.status = 0x01 ∧
      (t.res.toNat % 65536 : Int) = (lo1 + lo2 - 1) % 65521 ∧
      (t.res.toNat / 65536 : Int) = (rem * lo1 + hi1 + hi2 - rem) % 65521

/-- R92: the ranges of the intermediates for every pair of 32-bit inputs and every remainder. -/
def Obligations.Adler32IntermediatesStayInRange : Prop :=
  ∀ (a1 a2 : BitVec 32) (rem : Nat), rem < 65521 →
    rem * (low16 a1).toNat ≤ 4293853200 ∧
    65520 ≤ adlerSum1Before a1 a2 ∧ adlerSum1Before a1 a2 ≤ 196590 ∧
    1 ≤ adlerSum2Before a1 a2 rem ∧ adlerSum2Before a1 a2 rem ≤ 262110 ∧
    adlerSum1 a1 a2 ≤ 65548 ∧ adlerSum2 a1 a2 rem ≤ 65547

/-- R93: RES[63:32] is 0 after success; two sums below 65536 are packed without loss; a larger `sum1` is ORed over bit 16
and bit 32 of the packed value is dropped. -/
def Obligations.Adler32ResultIsTheLow32Bits : Prop :=
  ∀ s : State, s.len.getLsbD 63 = false → ∃ t : State, exec .adler32Combine s = .next t ∧
    let sum1 := adlerSum1 (adler1Operand s) (adler2Operand s)
    let sum2 := adlerSum2 (adler1Operand s) (adler2Operand s) (adlerRem s.len)
    t.res.toNat < 2 ^ 32 ∧
    (sum1 < 65536 → sum2 < 65536 → t.res.toNat = sum2 * 65536 + sum1) ∧
    ∀ j < 32, t.res.getLsbD j = (sum1.testBit j || (decide (16 ≤ j) && sum2.testBit (j - 16)))

/-- R95: bits 63:32 of OPA and OPB are not read, not checked and raise no error. -/
def Obligations.Adler32IgnoresUpperOperandBits : Prop :=
  ∀ (s : State) (x y : Word), x.extractLsb' 0 32 = s.opa.extractLsb' 0 32 → y.extractLsb' 0 32 = s.opb.extractLsb' 0 32 →
    ∃ t : State, exec .adler32Combine s = .next t ∧
      exec .adler32Combine { s with opa := x, opb := y } = .next { t with opa := x, opb := y }

/-- R97 (a) and (b): an empty B whose Adler-32 is 1 gives back a reduced OPA; a length that is a multiple of 65521 gives
what length 0 gives. -/
def Obligations.Adler32CornerCases : Prop :=
  ∀ s : State,
    (s.len = 0 → s.opb = 1 → s.opa.toNat < 2 ^ 32 → s.opa.toNat % 65536 < 65521 → s.opa.toNat / 65536 < 65521 →
      exec .adler32Combine s = .next { s with res := s.opa, status := 0x01 }) ∧
    ∀ n : Nat, n * 65521 < 2 ^ 63 → ∃ t : State,
      exec .adler32Combine { s with len := 0 } = .next { t with len := 0 } ∧
      exec .adler32Combine { s with len := BitVec.ofNat 64 (n * 65521) } =
        .next { t with len := BitVec.ofNat 64 (n * 65521) }

/-- R98 with the Adler-32 of G3 (general knowledge, log 13): from the Adler-32 of A and of B and the length of B, the
Adler-32 of A followed by B, also when A or B is empty; UNRED is not set. -/
def Obligations.Adler32CombineGivesAdlerOfConcatenation : Prop :=
  ∀ (s : State) (a b : List Byte), b.length < 2 ^ 63 →
    s.opa.extractLsb' 0 32 = adler32 a → s.opb.extractLsb' 0 32 = adler32 b → s.len = BitVec.ofNat 64 b.length →
    exec .adler32Combine s = .next { s with res := (adler32 (a ++ b)).setWidth 64, status := 0x01 }

/-! ## Whole-machine rules (10_state.md, 60_exceptions.md, 70_reset_and_hazards.md) -/

/-- R25, R26, R93, R101, R126: what STATUS tells of CMD and RES is kept by every step, from every state in which it
holds, whatever the host presents. -/
def Obligations.EveryStepKeepsStatusConsistent : Prop :=
  ∀ s t : State, Consistent s → step s = .next t → Consistent t

/-- R29: STATUS is consistent after reset. -/
def Obligations.ResetIsConsistent : Prop := Consistent State.reset

/-- R26: ERR = 1 exactly when ECODE is not 0; UNRED = 1 implies ERR = 0; DONE never returns to 0 except by reset. -/
def Obligations.StatusBitsObeyTheirRules : Prop :=
  ∀ s : State, Consistent s →
    (statusErr s.status = true ↔ statusEcode s.status ≠ 0) ∧
    (statusUnred s.status = true → statusErr s.status = false) ∧
    ∀ t : State, step s = .next t → statusDone s.status = true →
      (∀ e, nextEvent s = some e → isReset e = false) → statusDone t.status = true

/-- From R22, over every command: each completes, and none writes POLY, OPA, OPB or LEN. The other four clauses are the
model's: the CMD write sets CMD and the command does not (log 15, read from R48), and a command leaves the list of events
(log 1), the response (log 3) and the counter (log 4) alone. -/
def Obligations.CommandsLeaveTheOperands : Prop :=
  ∀ (i : Instr) (s : State), ∃ t : State, exec i s = .next t ∧
    t.poly = s.poly ∧ t.opa = s.opa ∧ t.opb = s.opb ∧ t.len = s.len ∧
    t.cmd = s.cmd ∧ t.pending = s.pending ∧ t.response = s.response ∧ t.draws = s.draws

/-- R25: a command never reads STATUS and writes all of it, to one of the values of R25; nor does any command read RES or
CMD (R23): running from a state that differs in these three gives a state that differs in CMD, and in RES where the
command left RES as it was. That CMD stays is log 15: the CMD write sets it, not the command. -/
def Obligations.CommandsIgnoreStatusResAndCmd : Prop :=
  ∀ (i : Instr) (s : State) (x y z : Word), ∃ t t' : State,
    exec i s = .next t ∧ exec i { s with status := x, res := y, cmd := z } = .next t' ∧
    t.status ∈ [(0x01 : Word), 0x05, 0x13] ∧
    t' = { t with cmd := z, res := t'.res } ∧ (t'.res = t.res ∨ (t.res = s.res ∧ t'.res = y))

/-- R106: a command that ends with an error has no effect beyond STATUS (and CMD, which the step has set before). -/
def Obligations.CommandErrorsArePrecise : Prop :=
  ∀ (i : Instr) (s t : State), exec i s = .next t → statusErr t.status = true → t = { s with status := t.status }

/-- R45, R23: a repeated delivery of a command write executes the command again and writes the same results. -/
def Obligations.RepeatingACommandChangesNothing : Prop :=
  ∀ (i : Instr) (s : State), ∃ t : State, exec i s = .next t ∧ exec i t = .next t

/-- R126: RES changes only by a reset or by a successful `GF2.APPLY`, `CRC64.COMBINE` or `ADLER32.COMBINE`. -/
def Obligations.ResChangesOnlyByItsCommands : Prop :=
  ∀ s t : State, step s = .next t → t.res ≠ s.res →
    (∃ e, nextEvent s = some e ∧ isReset e = true) ∨
    ∃ w i, nextEvent s = some (.request (.busWrite 0x000 w 0xFF)) ∧ decode w = .command i ∧
      ((∃ sl, i = .gf2Apply sl) ∨ i = .crc64Combine ∨ i = .adler32Combine) ∧ commandSucceeded t = true

/-- R125: what can change a slot. A slot changes only by a reset, by a host write of one of its rows, or by a command
that clobbers it: `GF2.SQUARE` of the other slot, `ZOP.BASE` of this one, `ZOP.SEED`, `CRC64.COMBINE`. -/
def Obligations.SlotsChangeOnlyByTheirCommands : Prop :=
  ∀ (s t : State) (sl : Slot), step s = .next t → slot sl t ≠ slot sl s →
    (∃ e, nextEvent s = some e ∧ isReset e = true) ∨
    (∃ j data, nextEvent s = some (.request (.busWrite (offsetOf (.row sl j)) data 0xFF))) ∨
    ∃ i, nextEvent s = some (.request (.busWrite 0x000 (encode i) 0xFF)) ∧
      (i = .gf2Square (otherSlot sl) ∨ i = .zopBase sl ∨ i = .zopSeed ∨ i = .crc64Combine)

/-- R100, R104: STATUS and CMD change only by a reset or a good write to CMD. -/
def Obligations.StatusAndCmdChangeOnlyByCmdWrites : Prop :=
  ∀ s t : State, step s = .next t → (t.status ≠ s.status ∨ t.cmd ≠ s.cmd) →
    (∃ e, nextEvent s = some e ∧ isReset e = true) ∨
    ∃ w, nextEvent s = some (.request (.busWrite 0x000 w 0xFF)) ∧ t.cmd = w

/-- R27 (a), R23, R87 (h): from any two states with the same POLY, OPA, OPB and LEN, whatever the slots, RES, STATUS and
CMD hold, `ZOP.SEED`, `CRC64.COMBINE` and `ADLER32.COMBINE` write the same values. -/
def Obligations.WholeCallCommandsIgnoreWhatCameBefore : Prop :=
  ∀ s s' : State, s.poly = s'.poly → s.opa = s'.opa → s.opb = s'.opb → s.len = s'.len →
    (∃ t t' : State, exec .zopSeed s = .next t ∧ exec .zopSeed s' = .next t' ∧
      t.m0 = t'.m0 ∧ t.m1 = t'.m1 ∧ t.status = t'.status) ∧
    (∃ t t' : State, exec .crc64Combine s = .next t ∧ exec .crc64Combine s' = .next t' ∧ t.status = t'.status ∧
      (s.len.getLsbD 63 = false → t.m0 = t'.m0 ∧ t.m1 = t'.m1 ∧ t.res = t'.res)) ∧
    ∃ t t' : State, exec .adler32Combine s = .next t ∧ exec .adler32Combine s' = .next t' ∧ t.status = t'.status ∧
      (s.len.getLsbD 63 = false → t.res = t'.res)

/-- R121: on the reset state every command completes with the results the rule gives. -/
def Obligations.CommandsOnTheResetState : Prop :=
  (∀ sl, ∃ t : State, exec (.gf2Apply sl) State.reset = .next t ∧ t.res = 0) ∧
  (∀ sl, ∃ t : State, exec (.gf2Square sl) State.reset = .next t ∧ t.m0 = zeroMatrix ∧ t.m1 = zeroMatrix) ∧
  (∃ t : State, exec .crc64Combine State.reset = .next t ∧ t.res = 0 ∧ t.status = 0x01 ∧
    (∀ v : Word, apply t.m0 v = v >>> 8) ∧ ∀ v : Word, apply t.m1 v = v >>> 4) ∧
  ∃ t : State, exec .adler32Combine State.reset = .next t ∧ t.res = 0xFFF0 ∧ t.status = 0x01
end

