-- ==== Sys2Proof/Laws/Adler.lean ====
section
/-!
SUPPORT. The bounded subtractions of ADLER32.COMBINE are a reduction modulo M (43_adler32_combine.md R91).
-/

namespace Sys2Proof.Machine

/-- "subtracting M up to twice" reduces what is below 3M. -/
theorem subtractOnce_twice {m x : Nat} (h : x < 3 * m) : subtractOnce m (subtractOnce m x) = x % m := by
  unfold subtractOnce
  by_cases h1 : m ≤ x
  · by_cases h2 : m ≤ x - m
    · rw [if_pos h1, if_pos h2, Nat.mod_eq_sub_mod h1, Nat.mod_eq_sub_mod h2, Nat.mod_eq_of_lt (by omega)]
    · rw [if_pos h1, if_neg h2, Nat.mod_eq_sub_mod h1, Nat.mod_eq_of_lt (by omega)]
  · rw [if_neg h1, if_neg h1, Nat.mod_eq_of_lt (by omega)]

/-- "subtracting 2M once if needed, then M once if needed" reduces what is below 4M. -/
theorem subtractOnce_double {m x : Nat} (h : x < 4 * m) : subtractOnce m (subtractOnce (2 * m) x) = x % m := by
  have one : ∀ y, y < 2 * m → subtractOnce m y = y % m := by
    intro y hy
    unfold subtractOnce
    by_cases h1 : m ≤ y
    · rw [if_pos h1, Nat.mod_eq_sub_mod h1, Nat.mod_eq_of_lt (by omega)]
    · rw [if_neg h1, Nat.mod_eq_of_lt (by omega)]
  by_cases h1 : 2 * m ≤ x
  · have e : subtractOnce (2 * m) x = x - 2 * m := if_pos h1
    rw [e, one _ (by omega), Nat.mod_eq_sub_mod (a := x) (by omega), Nat.mod_eq_sub_mod (a := x - m) (by omega)]
    congr 1; omega
  · have e : subtractOnce (2 * m) x = x := if_neg h1
    rw [e, one _ (by omega)]

/-- The low half of operand word `x`, as a number. -/
theorem low16_toNat (x : Word) : (low16 (x.extractLsb' 0 32)).toNat = x.toNat % 65536 := by
  simp [low16, BitVec.extractLsb'_toNat]

/-- The high half of operand word `x`, as a number. -/
theorem high16_toNat (x : Word) : (high16 (x.extractLsb' 0 32)).toNat = x.toNat / 65536 % 65536 := by
  simp [high16, BitVec.extractLsb'_toNat, Nat.shiftRight_eq_div_pow]

end Sys2Proof.Machine
end

