-- ==== Sys2Proof/Laws/Decode.lean ====
section
/-!
SUPPORT. The fields of a command word as numbers (30_encoding.md R50), and a word from its fields.
-/

namespace Sys2Proof

theorem zeroField_eq_zero_iff (w : Word) : zeroField w = 0 ↔ w.toNat / 512 = 0 := by
  unfold zeroField
  rw [← BitVec.toNat_inj, BitVec.extractLsb'_toNat, Nat.shiftRight_eq_div_pow]
  have := w.isLt
  simp; omega

theorem opcField_eq_iff (w : Word) (k : Nat) (hk : k < 256) : opcField w = BitVec.ofNat 8 k ↔ w.toNat % 256 = k := by
  unfold opcField
  rw [← BitVec.toNat_inj, BitVec.extractLsb'_toNat]
  simp; omega

theorem slotBit_eq_true_iff (w : Word) : slotBit w = true ↔ w.toNat / 256 % 2 = 1 := by
  unfold slotBit
  rw [BitVec.getLsbD, Nat.testBit_eq_decide_div_mod_eq]; simp

theorem slotBit_eq_false_iff (w : Word) : slotBit w = false ↔ w.toNat / 256 % 2 = 0 := by
  rw [← Bool.not_eq_true, slotBit_eq_true_iff]; omega

@[simp] theorem slotOfBit_bitOfSlot (sl : Slot) : slotOfBit (bitOfSlot sl) = sl := by cases sl <;> rfl

@[simp] theorem bitOfSlot_slotOfBit (b : Bool) : bitOfSlot (slotOfBit b) = b := by cases b <;> rfl

/-- A word whose ZERO field is 0 is the word of its other two fields. -/
theorem eq_wordOfFields {w : Word} (h : zeroField w = 0) : w = wordOfFields (slotBit w) (opcField w) := by
  rw [zeroField_eq_zero_iff] at h
  have number : ∀ s : Bool, ∀ k < 256, (wordOfFields s (BitVec.ofNat 8 k)).toNat = (if s then 256 else 0) + k := by
    decide +kernel
  have hk : w.toNat % 256 < 256 := by omega
  have ho := (opcField_eq_iff w _ hk).2 rfl
  apply BitVec.eq_of_toNat_eq
  rw [ho, number _ _ hk]
  cases hs : slotBit w
  · rw [slotBit_eq_false_iff] at hs; simp; omega
  · rw [slotBit_eq_true_iff] at hs; simp; omega

end Sys2Proof
end

