-- ==== Sys2Proof/Laws/State.lean ====
section
/-!
SUPPORT. One lemma per field per update of State, so that no later proof unfolds a record update; and the slots.
-/

namespace Sys2Proof.Machine

section writeRes
variable (v : Word) (s : State)

@[simp] theorem writeRes_cmd : (writeRes v s).cmd = s.cmd := rfl
@[simp] theorem writeRes_status : (writeRes v s).status = s.status := rfl
@[simp] theorem writeRes_poly : (writeRes v s).poly = s.poly := rfl
@[simp] theorem writeRes_opa : (writeRes v s).opa = s.opa := rfl
@[simp] theorem writeRes_opb : (writeRes v s).opb = s.opb := rfl
@[simp] theorem writeRes_len : (writeRes v s).len = s.len := rfl
@[simp] theorem writeRes_res : (writeRes v s).res = v := rfl
@[simp] theorem writeRes_m0 : (writeRes v s).m0 = s.m0 := rfl
@[simp] theorem writeRes_m1 : (writeRes v s).m1 = s.m1 := rfl
@[simp] theorem writeRes_pending : (writeRes v s).pending = s.pending := rfl
@[simp] theorem writeRes_response : (writeRes v s).response = s.response := rfl
@[simp] theorem writeRes_draws : (writeRes v s).draws = s.draws := rfl

end writeRes

section succeed
variable (u : Bool) (s : State)

@[simp] theorem succeed_cmd : (succeed u s).cmd = s.cmd := rfl
@[simp] theorem succeed_status : (succeed u s).status = successStatus u := rfl
@[simp] theorem succeed_poly : (succeed u s).poly = s.poly := rfl
@[simp] theorem succeed_opa : (succeed u s).opa = s.opa := rfl
@[simp] theorem succeed_opb : (succeed u s).opb = s.opb := rfl
@[simp] theorem succeed_len : (succeed u s).len = s.len := rfl
@[simp] theorem succeed_res : (succeed u s).res = s.res := rfl
@[simp] theorem succeed_m0 : (succeed u s).m0 = s.m0 := rfl
@[simp] theorem succeed_m1 : (succeed u s).m1 = s.m1 := rfl
@[simp] theorem succeed_pending : (succeed u s).pending = s.pending := rfl
@[simp] theorem succeed_response : (succeed u s).response = s.response := rfl
@[simp] theorem succeed_draws : (succeed u s).draws = s.draws := rfl

end succeed

section raise
variable (e : CommandError) (s : State)

@[simp] theorem raise_cmd : (raise e s).cmd = s.cmd := rfl
@[simp] theorem raise_status : (raise e s).status = errorStatus e := rfl
@[simp] theorem raise_poly : (raise e s).poly = s.poly := rfl
@[simp] theorem raise_opa : (raise e s).opa = s.opa := rfl
@[simp] theorem raise_opb : (raise e s).opb = s.opb := rfl
@[simp] theorem raise_len : (raise e s).len = s.len := rfl
@[simp] theorem raise_res : (raise e s).res = s.res := rfl
@[simp] theorem raise_m0 : (raise e s).m0 = s.m0 := rfl
@[simp] theorem raise_m1 : (raise e s).m1 = s.m1 := rfl
@[simp] theorem raise_pending : (raise e s).pending = s.pending := rfl
@[simp] theorem raise_response : (raise e s).response = s.response := rfl
@[simp] theorem raise_draws : (raise e s).draws = s.draws := rfl

end raise

section answer
variable (r : Response) (s : State)

@[simp] theorem answer_cmd : (answer r s).cmd = s.cmd := rfl
@[simp] theorem answer_status : (answer r s).status = s.status := rfl
@[simp] theorem answer_poly : (answer r s).poly = s.poly := rfl
@[simp] theorem answer_opa : (answer r s).opa = s.opa := rfl
@[simp] theorem answer_opb : (answer r s).opb = s.opb := rfl
@[simp] theorem answer_len : (answer r s).len = s.len := rfl
@[simp] theorem answer_res : (answer r s).res = s.res := rfl
@[simp] theorem answer_m0 : (answer r s).m0 = s.m0 := rfl
@[simp] theorem answer_m1 : (answer r s).m1 = s.m1 := rfl
@[simp] theorem answer_pending : (answer r s).pending = s.pending := rfl
@[simp] theorem answer_response : (answer r s).response = some r := rfl
@[simp] theorem answer_draws : (answer r s).draws = s.draws := rfl

end answer

section resetBlock
variable (s : State)

@[simp] theorem resetBlock_cmd : (resetBlock s).cmd = 0 := rfl
@[simp] theorem resetBlock_status : (resetBlock s).status = 0 := rfl
@[simp] theorem resetBlock_poly : (resetBlock s).poly = 0 := rfl
@[simp] theorem resetBlock_opa : (resetBlock s).opa = 0 := rfl
@[simp] theorem resetBlock_opb : (resetBlock s).opb = 0 := rfl
@[simp] theorem resetBlock_len : (resetBlock s).len = 0 := rfl
@[simp] theorem resetBlock_res : (resetBlock s).res = 0 := rfl
@[simp] theorem resetBlock_m0 : (resetBlock s).m0 = zeroMatrix := rfl
@[simp] theorem resetBlock_m1 : (resetBlock s).m1 = zeroMatrix := rfl
@[simp] theorem resetBlock_pending : (resetBlock s).pending = s.pending := rfl
@[simp] theorem resetBlock_response : (resetBlock s).response = none := rfl
@[simp] theorem resetBlock_draws : (resetBlock s).draws = s.draws := rfl

end resetBlock

section presentCommand
variable (w : Word) (s : State)

@[simp] theorem presentCommand_cmd : (presentCommand w s).cmd = s.cmd := rfl
@[simp] theorem presentCommand_status : (presentCommand w s).status = s.status := rfl
@[simp] theorem presentCommand_poly : (presentCommand w s).poly = s.poly := rfl
@[simp] theorem presentCommand_opa : (presentCommand w s).opa = s.opa := rfl
@[simp] theorem presentCommand_opb : (presentCommand w s).opb = s.opb := rfl
@[simp] theorem presentCommand_len : (presentCommand w s).len = s.len := rfl
@[simp] theorem presentCommand_res : (presentCommand w s).res = s.res := rfl
@[simp] theorem presentCommand_m0 : (presentCommand w s).m0 = s.m0 := rfl
@[simp] theorem presentCommand_m1 : (presentCommand w s).m1 = s.m1 := rfl
@[simp] theorem presentCommand_pending : (presentCommand w s).pending = .request (commandWrite w) :: s.pending := rfl
@[simp] theorem presentCommand_response : (presentCommand w s).response = s.response := rfl
@[simp] theorem presentCommand_draws : (presentCommand w s).draws = s.draws := rfl

end presentCommand

section writeSlot
variable (sl : Slot) (m : GF2Matrix) (s : State)

@[simp] theorem writeSlot_cmd : (writeSlot sl m s).cmd = s.cmd := by cases sl <;> rfl
@[simp] theorem writeSlot_status : (writeSlot sl m s).status = s.status := by cases sl <;> rfl
@[simp] theorem writeSlot_poly : (writeSlot sl m s).poly = s.poly := by cases sl <;> rfl
@[simp] theorem writeSlot_opa : (writeSlot sl m s).opa = s.opa := by cases sl <;> rfl
@[simp] theorem writeSlot_opb : (writeSlot sl m s).opb = s.opb := by cases sl <;> rfl
@[simp] theorem writeSlot_len : (writeSlot sl m s).len = s.len := by cases sl <;> rfl
@[simp] theorem writeSlot_res : (writeSlot sl m s).res = s.res := by cases sl <;> rfl
@[simp] theorem writeSlot_pending : (writeSlot sl m s).pending = s.pending := by cases sl <;> rfl
@[simp] theorem writeSlot_response : (writeSlot sl m s).response = s.response := by cases sl <;> rfl
@[simp] theorem writeSlot_draws : (writeSlot sl m s).draws = s.draws := by cases sl <;> rfl
@[simp] theorem writeSlot_m0_m0 : (writeSlot .m0 m s).m0 = m := rfl
@[simp] theorem writeSlot_m0_m1 : (writeSlot .m0 m s).m1 = s.m1 := rfl
@[simp] theorem writeSlot_m1_m0 : (writeSlot .m1 m s).m0 = s.m0 := rfl
@[simp] theorem writeSlot_m1_m1 : (writeSlot .m1 m s).m1 = m := rfl
@[simp] theorem slot_writeSlot_same : slot sl (writeSlot sl m s) = m := by cases sl <;> rfl
@[simp] theorem slot_writeSlot_other : slot (otherSlot sl) (writeSlot sl m s) = slot (otherSlot sl) s := by
  cases sl <;> rfl

end writeSlot

section slot
variable (sl : Slot) (s : State)

@[simp] theorem slot_m0 : slot .m0 s = s.m0 := rfl
@[simp] theorem slot_m1 : slot .m1 s = s.m1 := rfl
@[simp] theorem otherSlot_otherSlot : otherSlot (otherSlot sl) = sl := by cases sl <;> rfl
@[simp] theorem slot_writeRes (v : Word) : slot sl (writeRes v s) = slot sl s := by cases sl <;> rfl
@[simp] theorem slot_succeed (u : Bool) : slot sl (succeed u s) = slot sl s := by cases sl <;> rfl
@[simp] theorem slot_raise (e : CommandError) : slot sl (raise e s) = slot sl s := by cases sl <;> rfl
@[simp] theorem slot_answer (r : Response) : slot sl (answer r s) = slot sl s := by cases sl <;> rfl
@[simp] theorem slot_resetBlock : slot sl (resetBlock s) = zeroMatrix := by cases sl <;> rfl

end slot

section statusValues

@[simp] theorem successStatus_false : successStatus false = 0x01 := by decide
@[simp] theorem successStatus_true : successStatus true = 0x05 := by decide
@[simp] theorem errorStatus_invalidLength : errorStatus .invalidLength = 0x13 := by decide
@[simp] theorem errorStatus_illegalCommand : errorStatus .illegalCommand = 0x23 := by decide

end statusValues

end Sys2Proof.Machine
end

