-- ==== Sys2Proof/Laws/Exec.lean ====
section
/-!
SUPPORT. What a command does, said once: one equation per command over the named updates, and one case list for all.
-/

namespace Sys2Proof.Machine

theorem exec_gf2Apply (sl : Slot) (s : State) :
    exec (.gf2Apply sl) s = .next (succeed false (writeRes (apply (slot sl s) s.opa) s)) := by
  simp only [exec, execGf2Apply, vectorOperand]

theorem exec_gf2Square (sl : Slot) (s : State) :
    exec (.gf2Square sl) s = .next (succeed false (writeSlot (otherSlot sl) (square (slot sl s)) s)) := by
  simp only [exec, execGf2Square]

theorem exec_zopBase (sl : Slot) (s : State) :
    exec (.zopBase sl) s = .next (succeed false (writeSlot sl (buildBase s.poly) s)) := by
  simp only [exec, execZopBase, polynomialOperand]

theorem exec_zopSeed (s : State) :
    exec .zopSeed s =
      .next (succeed false
        (writeSlot .m1 (square (square (buildBase s.poly))) (writeSlot .m0 (square (buildBase s.poly)) s))) := by
  simp only [exec, execZopSeed, polynomialOperand, seedOperators]

theorem exec_crc64Combine_negative {s : State} (h : s.len.getLsbD 63 = true) :
    exec .crc64Combine s = .next (raise .invalidLength s) := by
  have h' : lenNegative s = true := h
  simp only [exec, execCrc64Combine, h', if_true]

theorem exec_crc64Combine {s : State} (h : s.len.getLsbD 63 = false) :
    exec .crc64Combine s =
      .next (succeed false (writeRes ((crcLadder s.poly s.opa s.len).acc ^^^ s.opb)
        (writeSlot .m1 (crcLadder s.poly s.opa s.len).m1 (writeSlot .m0 (crcLadder s.poly s.opa s.len).m0 s)))) := by
  have h' : lenNegative s = false := h
  simp only [exec, execCrc64Combine, h', polynomialOperand, crc1Operand, crc2Operand, lenOperand, Bool.false_eq_true,
    if_false]

theorem exec_adler32Combine_negative {s : State} (h : s.len.getLsbD 63 = true) :
    exec .adler32Combine s = .next (raise .invalidLength s) := by
  have h' : lenNegative s = true := h
  simp only [exec, execAdler32Combine, h', if_true]

theorem exec_adler32Combine {s : State} (h : s.len.getLsbD 63 = false) :
    exec .adler32Combine s =
      .next (succeed (adlerUnreduced (adler1Operand s) (adler2Operand s))
        (writeRes ((adlerCombine (adler1Operand s) (adler2Operand s) s.len).setWidth 64) s)) := by
  have h' : lenNegative s = false := h
  simp only [exec, execAdler32Combine, h', lenOperand, Bool.false_eq_true, if_false]

/-- Everything a command can do. -/
theorem exec_cases {i : Instr} {s t : State} (h : exec i s = .next t) :
    ((i = .crc64Combine ∨ i = .adler32Combine) ∧ s.len.getLsbD 63 = true ∧ t = raise .invalidLength s) ∨
    (∃ sl, i = .gf2Apply sl ∧ t = succeed false (writeRes (apply (slot sl s) s.opa) s)) ∨
    (∃ sl, i = .gf2Square sl ∧ t = succeed false (writeSlot (otherSlot sl) (square (slot sl s)) s)) ∨
    (∃ sl, i = .zopBase sl ∧ t = succeed false (writeSlot sl (buildBase s.poly) s)) ∨
    (i = .zopSeed ∧ t = succeed false
      (writeSlot .m1 (square (square (buildBase s.poly))) (writeSlot .m0 (square (buildBase s.poly)) s))) ∨
    (i = .crc64Combine ∧ s.len.getLsbD 63 = false ∧
      t = succeed false (writeRes ((crcLadder s.poly s.opa s.len).acc ^^^ s.opb)
        (writeSlot .m1 (crcLadder s.poly s.opa s.len).m1 (writeSlot .m0 (crcLadder s.poly s.opa s.len).m0 s)))) ∨
    (i = .adler32Combine ∧ s.len.getLsbD 63 = false ∧
      t = succeed (adlerUnreduced (adler1Operand s) (adler2Operand s))
        (writeRes ((adlerCombine (adler1Operand s) (adler2Operand s) s.len).setWidth 64) s)) := by
  cases i with
  | gf2Apply sl =>
    rw [exec_gf2Apply] at h; injection h with h
    right; left; exact ⟨sl, rfl, h.symm⟩
  | gf2Square sl =>
    rw [exec_gf2Square] at h; injection h with h
    right; right; left; exact ⟨sl, rfl, h.symm⟩
  | zopBase sl =>
    rw [exec_zopBase] at h; injection h with h
    right; right; right; left; exact ⟨sl, rfl, h.symm⟩
  | zopSeed =>
    rw [exec_zopSeed] at h; injection h with h
    right; right; right; right; left; exact ⟨rfl, h.symm⟩
  | crc64Combine =>
    cases hl : s.len.getLsbD 63
    · rw [exec_crc64Combine hl] at h; injection h with h
      right; right; right; right; right; left; exact ⟨rfl, rfl, h.symm⟩
    · rw [exec_crc64Combine_negative hl] at h; injection h with h
      left; exact ⟨.inl rfl, rfl, h.symm⟩
  | adler32Combine =>
    cases hl : s.len.getLsbD 63
    · rw [exec_adler32Combine hl] at h; injection h with h
      right; right; right; right; right; right; exact ⟨rfl, rfl, h.symm⟩
    · rw [exec_adler32Combine_negative hl] at h; injection h with h
      left; exact ⟨.inr rfl, rfl, h.symm⟩

/-- No command faults or refuses. -/
theorem exec_eq_next (i : Instr) (s : State) : ∃ t, exec i s = .next t := by
  cases i with
  | gf2Apply sl => exact ⟨_, exec_gf2Apply sl s⟩
  | gf2Square sl => exact ⟨_, exec_gf2Square sl s⟩
  | zopBase sl => exact ⟨_, exec_zopBase sl s⟩
  | zopSeed => exact ⟨_, exec_zopSeed s⟩
  | crc64Combine =>
    cases hl : s.len.getLsbD 63
    · exact ⟨_, exec_crc64Combine hl⟩
    · exact ⟨_, exec_crc64Combine_negative hl⟩
  | adler32Combine =>
    cases hl : s.len.getLsbD 63
    · exact ⟨_, exec_adler32Combine hl⟩
    · exact ⟨_, exec_adler32Combine_negative hl⟩

end Sys2Proof.Machine
end

