-- ==== Sys2Proof/Laws/Gf2.lean ====
section
/-!
SUPPORT. The matrix functions row by row and step by step.
-/

namespace Sys2Proof.Machine

@[simp] theorem getElem_square (m : GF2Matrix) (i : Nat) (h : i < 64) : (square m)[i] = apply m m[i] := by
  simp [square]

@[simp] theorem getElem_buildBase (p : Word) (i : Nat) (h : i < 64) :
    (buildBase p)[i] = if i = 0 then p else (1 : Word) <<< (i - 1) := by
  simp [buildBase]

/-- The scan of `apply` from bit `k` of the vector on, over the rows that are left. -/
def scanRows (rows : List Word) (k : Nat) (v acc : Word) : Word :=
  (rows.zipIdx k).foldl (fun acc row => if v.getLsbD row.2 then acc ^^^ row.1 else acc) acc

theorem apply_eq_scanRows (m : GF2Matrix) (v : Word) : apply m v = scanRows m.toList 0 v 0 := rfl

@[simp] theorem scanRows_nil (k : Nat) (v acc : Word) : scanRows [] k v acc = acc := rfl

@[simp] theorem scanRows_cons (r : Word) (rows : List Word) (k : Nat) (v acc : Word) :
    scanRows (r :: rows) k v acc = scanRows rows (k + 1) v (if v.getLsbD k then acc ^^^ r else acc) := rfl

/-- The accumulator only adds to what the scan gives from 0. -/
theorem scanRows_acc (rows : List Word) (k : Nat) (v acc : Word) :
    scanRows rows k v acc = acc ^^^ scanRows rows k v 0 := by
  induction rows generalizing k acc with
  | nil => simp
  | cons r rows ih =>
    rw [scanRows_cons, scanRows_cons, ih, ih (k + 1) (if v.getLsbD k then 0 ^^^ r else 0)]
    split <;> simp [BitVec.xor_assoc]

/-- The scan as an XOR over the rows that are left, bit by bit of the vector. -/
theorem scanRows_zero_cons (r : Word) (rows : List Word) (k : Nat) (v : Word) :
    scanRows (r :: rows) k v 0 = (if v.getLsbD k then r else 0) ^^^ scanRows rows (k + 1) v 0 := by
  rw [scanRows_cons, scanRows_acc]
  split <;> simp

/-- `apply` as R60 writes it: for i in 0..63, if v[i] = 1 then acc <- acc ^ m[i]. -/
theorem apply_eq_foldl_finRange (m : GF2Matrix) (v : Word) :
    apply m v = (List.finRange 64).foldl (fun acc i => if v.getLsbD i.val then acc ^^^ m[i] else acc) 0 := by
  have h : m.toList.zipIdx = (List.finRange 64).map fun i => (m[i], i.val) := by
    apply List.ext_getElem <;> simp
  simp [apply, h, List.foldl_map]

end Sys2Proof.Machine
end

