-- ==== Sys2Proof/Laws/Ladder.lean ====
section
/-!
SUPPORT. One round of the ladder of CRC64.COMBINE, and the loop, step by step (42_crc64_combine.md R81, R82).
-/

namespace Sys2Proof.Machine

theorem ladderRound_even {l : Ladder} (h : l.k % 2 = 0) :
    ladderRound l = { l with m0 := square l.m1, acc := if l.n.getLsbD 0 then apply (square l.m1) l.acc else l.acc,
                             n := l.n >>> 1, k := l.k + 1 } := by
  have hd : slotOfParity l.k = .m0 := by simp only [slotOfParity, h, if_true]
  simp only [ladderRound, hd]

theorem ladderRound_odd {l : Ladder} (h : l.k % 2 = 1) :
    ladderRound l = { l with m1 := square l.m0, acc := if l.n.getLsbD 0 then apply (square l.m0) l.acc else l.acc,
                             n := l.n >>> 1, k := l.k + 1 } := by
  have hd : slotOfParity l.k = .m1 := by simp only [slotOfParity, h, one_ne_zero, if_false]
  simp only [ladderRound, hd]

theorem ladderLoop_zero (l : Ladder) : ladderLoop 0 l = ladderRound l := by simp only [ladderLoop]

theorem ladderLoop_succ (fuel : Nat) (l : Ladder) :
    ladderLoop (fuel + 1) l = if (ladderRound l).n = 0 then ladderRound l else ladderLoop fuel (ladderRound l) := by
  simp only [ladderLoop]

end Sys2Proof.Machine
end

