-- ==== Sys2Proof/Laws/Ops.lean ====
section
/-!
SUPPORT. The register window (20_memory.md R34): offsets and registers stand for each other, and what reading after
storing gives.
-/

namespace Sys2Proof.Machine

/-- The table of R34 as numbers. -/
theorem offsetOf_toNat (r : WindowReg) : (offsetOf r).toNat = match r with
    | .cmd => 0x000 | .status => 0x008 | .poly => 0x010 | .opa => 0x018 | .opb => 0x020 | .len => 0x028 | .res => 0x030
    | .row .m0 i => 0x200 + 8 * i.val | .row .m1 i => 0x400 + 8 * i.val := by
  cases r <;> try rfl
  rename_i sl i
  cases sl <;> (simp only [offsetOf, BitVec.toNat_ofNat]; omega)

/-- The rows of M0 stand at 0x200 to 0x3F8 (R34). -/
theorem regAt_row_m0 (i : Fin 64) : regAt (offsetOf (.row .m0 i)) = some (.row .m0 i) := by
  have h : (offsetOf (.row .m0 i)).toNat = 0x200 + 8 * i.val := offsetOf_toNat (.row .m0 i)
  unfold regAt
  simp only [h]
  split_ifs <;> first | omega | simp

/-- The rows of M1 stand at 0x400 to 0x5F8 (R34). -/
theorem regAt_row_m1 (i : Fin 64) : regAt (offsetOf (.row .m1 i)) = some (.row .m1 i) := by
  have h : (offsetOf (.row .m1 i)).toNat = 0x400 + 8 * i.val := offsetOf_toNat (.row .m1 i)
  unfold regAt
  simp only [h]
  split_ifs <;> first | omega | simp

/-- Every register is found at its own offset. -/
@[simp] theorem regAt_offsetOf (r : WindowReg) : regAt (offsetOf r) = some r := by
  match r with
  | .row .m0 i => exact regAt_row_m0 i
  | .row .m1 i => exact regAt_row_m1 i
  | .cmd | .status | .poly | .opa | .opb | .len | .res => decide

/-- A register is found nowhere else. -/
theorem eq_offsetOf_of_regAt {off : Offset} {r : WindowReg} (h : regAt off = some r) : off = offsetOf r := by
  apply BitVec.eq_of_toNat_eq
  rw [offsetOf_toNat]
  unfold regAt at h
  simp only at h
  split_ifs at h <;> (injection h with h; subst h; simp only; omega)

/-- No register is found exactly at the misaligned and the unmapped offsets (R34, R38). -/
theorem regAt_eq_none_iff (off : Offset) : regAt off = none ↔
    off.toNat % 8 ≠ 0 ∨ (0x038 ≤ off.toNat ∧ off.toNat ≤ 0x1FF) ∨ (0x600 ≤ off.toNat ∧ off.toNat ≤ 0xFFF) := by
  have := off.isLt
  unfold regAt
  simp only
  split_ifs <;> simp <;> omega

/-- Reading a register after a row is written. -/
theorem readReg_writeRow (r : WindowReg) (sl : Slot) (i : Fin 64) (v : Word) (s : State) :
    readReg r (writeRow sl i v s) = if r = .row sl i then v else readReg r s := by
  cases r
  case row sl' j =>
    cases sl <;> cases sl' <;>
      simp [readReg, writeRow, slot, writeSlot, Vector.getElem_set, Fin.ext_iff, eq_comm]
  all_goals simp [readReg, writeRow]

/-- Reading after a store: the register stored to holds the value, every other register what it held. -/
theorem readReg_storeReg {r : WindowReg} {v : Word} {s t : State} (h : storeReg r v s = some t) (q : WindowReg) :
    readReg q t = if q = r then v else readReg q s := by
  cases r <;> simp only [storeReg, Option.some.injEq, reduceCtorEq] at h <;> subst h
  case row sl i => exact readReg_writeRow q sl i v s
  all_goals cases q <;> rfl

/-- A store leaves the port alone. -/
theorem storeReg_port {r : WindowReg} {v : Word} {s t : State} (h : storeReg r v s = some t) :
    t.pending = s.pending ∧ t.response = s.response ∧ t.draws = s.draws := by
  cases r <;> simp only [storeReg, Option.some.injEq, reduceCtorEq] at h <;> subst h <;> simp [writeRow]

/-- Which registers take a store (R36, R38). -/
theorem storeReg_eq_none_iff (r : WindowReg) (v : Word) (s : State) :
    storeReg r v s = none ↔ r = .status ∨ r = .res := by
  cases r <;> simp [storeReg]

end Sys2Proof.Machine
end

