-- ==== Sys2Proof/Laws/PerInstr.lean ====
section
/-!
SUPPORT. Facts about a command as syntax, one lemma per command.
-/

namespace Sys2Proof.Laws

namespace EncodedWordDecodes

/-- The word of a well-formed command decodes to that command (30_encoding.md R51, R52). -/
def Statement (i : Instr) : Prop := i.wellFormed = true → decode (encode i) = .command i

theorem gf2Apply (slot : Slot) : Statement (.gf2Apply slot) := fun _ => by cases slot <;> decide
theorem gf2Square (slot : Slot) : Statement (.gf2Square slot) := fun _ => by cases slot <;> decide
theorem zopBase (slot : Slot) : Statement (.zopBase slot) := fun _ => by cases slot <;> decide
theorem zopSeed : Statement .zopSeed := fun _ => by decide
theorem crc64Combine : Statement .crc64Combine := fun _ => by decide
theorem adler32Combine : Statement .adler32Combine := fun _ => by decide

end EncodedWordDecodes

namespace EncodedWordIsLegal

/-- The word of a command is one of the nine legal words (30_encoding.md R52, R55). -/
def Statement (i : Instr) : Prop := legalWord (encode i) = true

theorem gf2Apply (slot : Slot) : Statement (.gf2Apply slot) := by unfold Statement; cases slot <;> decide
theorem gf2Square (slot : Slot) : Statement (.gf2Square slot) := by unfold Statement; cases slot <;> decide
theorem zopBase (slot : Slot) : Statement (.zopBase slot) := by unfold Statement; cases slot <;> decide
theorem zopSeed : Statement .zopSeed := by unfold Statement; decide
theorem crc64Combine : Statement .crc64Combine := by unfold Statement; decide
theorem adler32Combine : Statement .adler32Combine := by unfold Statement; decide

end EncodedWordIsLegal

end Sys2Proof.Laws
end

