-- ==== Sys2Proof/Laws/Step.lean ====
section
/-!
SUPPORT. What a transaction and a step do, said once.
-/

namespace Sys2Proof.Machine

/-- Everything the write of a command word can do (30_encoding.md R48). -/
theorem runCommand_cases {w : Word} {s u : State} (h : runCommand w s = .next u) :
    (∃ why, decode w = .illegal why ∧ u = raise .illegalCommand { s with cmd := w }) ∨
    ∃ i, decode w = .command i ∧ exec i { s with cmd := w } = .next u := by
  unfold runCommand at h
  split at h
  · next i hd => right; exact ⟨i, hd, h⟩
  · next why hd => left; injection h with h; exact ⟨why, hd, h.symm⟩

theorem runCommand_eq_next (w : Word) (s : State) : ∃ t, runCommand w s = .next t := by
  unfold runCommand
  split
  · exact exec_eq_next _ _
  · exact ⟨_, rfl⟩

/-- A read of a register (20_memory.md R35). -/
theorem busRead_offsetOf (r : WindowReg) (s : State) :
    busRead (offsetOf r) s = answer (.read .okay (readReg r s)) s := by
  simp only [busRead, regAt_offsetOf]

/-- A full write of CMD runs the command (R37). -/
theorem busWrite_cmd (w : Word) (s : State) :
    busWrite (offsetOf .cmd) w 0xFF s = onNext (answer (.write .okay)) (runCommand w s) := by
  simp only [busWrite, regAt_offsetOf, if_true]

/-- A full write of another register stores into it (R36). -/
theorem busWrite_offsetOf {r : WindowReg} {v : Word} {s t : State} (hr : r ≠ .cmd) (h : storeReg r v s = some t) :
    busWrite (offsetOf r) v 0xFF s = .next (answer (.write .okay) t) := by
  simp only [busWrite, regAt_offsetOf, if_true]
  cases r <;> simp only [storeReg, Option.some.injEq, reduceCtorEq] at h <;>
    first | exact absurd rfl hr | (subst h; rfl)

/-- Everything a bus write can do. -/
theorem busWrite_cases (off : Offset) (data : Word) (strb : Strobe) (s : State) :
    (busWrite off data strb s = .next (answer (.write .error) s) ∧
      (strb ≠ 0xFF ∨ regAt off = none ∨ off = offsetOf .status ∨ off = offsetOf .res)) ∨
    (off = offsetOf .cmd ∧ strb = 0xFF ∧
      busWrite off data strb s = onNext (answer (.write .okay)) (runCommand data s)) ∨
    ∃ r t, off = offsetOf r ∧ strb = 0xFF ∧ storeReg r data s = some t ∧ r ≠ .cmd ∧
      busWrite off data strb s = .next (answer (.write .okay) t) := by
  by_cases hs : strb = 0xFF
  · subst hs
    cases h : regAt off with
    | none => left; exact ⟨by simp only [busWrite, h, if_true], .inr (.inl rfl)⟩
    | some r =>
      obtain rfl := eq_offsetOf_of_regAt h
      by_cases hc : r = .cmd
      · subst hc; right; left; exact ⟨rfl, rfl, busWrite_cmd data s⟩
      · cases ht : storeReg r data s with
        | some t => right; right; exact ⟨r, t, rfl, rfl, ht, hc, busWrite_offsetOf hc ht⟩
        | none =>
          left
          rcases (storeReg_eq_none_iff r data s).1 ht with rfl | rfl
          · exact ⟨by simp only [busWrite, regAt_offsetOf, if_true, storeReg], .inr (.inr (.inl rfl))⟩
          · exact ⟨by simp only [busWrite, regAt_offsetOf, if_true, storeReg], .inr (.inr (.inr rfl))⟩
  · left; exact ⟨by simp only [busWrite, hs, if_false], .inl hs⟩

/-- Everything a step can do: it waits, is reset, answers a read, turns a write away, stores, or runs a command word. -/
theorem step_cases {s t : State} (h : step s = .next t) :
    (s.pending = [] ∧ t = { s with response := none }) ∨
    (∃ e rest, s.pending = e :: rest ∧ isReset e = true ∧ t = resetBlock { s with pending := rest }) ∨
    (∃ off rest, s.pending = .request (.busRead off) :: rest ∧ t = busRead off { s with pending := rest }) ∨
    (∃ off data strb rest, s.pending = .request (.busWrite off data strb) :: rest ∧
      t = answer (.write .error) { s with pending := rest }) ∨
    (∃ r data rest u, s.pending = .request (.busWrite (offsetOf r) data 0xFF) :: rest ∧ r ≠ .cmd ∧
      storeReg r data { s with pending := rest } = some u ∧ t = answer (.write .okay) u) ∨
    ∃ w rest u, s.pending = .request (.busWrite (offsetOf .cmd) w 0xFF) :: rest ∧
      runCommand w { s with pending := rest } = .next u ∧ t = answer (.write .okay) u := by
  unfold step portStep at h
  cases hp : s.pending with
  | nil => rw [hp] at h; injection h with h; left; exact ⟨rfl, h.symm⟩
  | cons e rest =>
    rw [hp] at h
    right
    cases e with
    | reset => injection h with h; left; exact ⟨_, _, rfl, rfl, h.symm⟩
    | resetDuring x => injection h with h; left; exact ⟨_, _, rfl, rfl, h.symm⟩
    | request x =>
      right
      cases x with
      | busRead off => injection h with h; left; exact ⟨_, _, rfl, h.symm⟩
      | busWrite off data strb =>
        right
        simp only [portEvent, transact] at h
        rcases busWrite_cases off data strb { s with pending := rest } with
          ⟨h', _⟩ | ⟨rfl, rfl, h'⟩ | ⟨r, t', rfl, rfl, hst, hc, h'⟩
        · rw [h'] at h; injection h with h; left; exact ⟨_, _, _, _, rfl, h.symm⟩
        · rw [h'] at h
          obtain ⟨u, hu⟩ := runCommand_eq_next data { s with pending := rest }
          rw [hu] at h; injection h with h
          right; right; exact ⟨_, _, _, rfl, hu, h.symm⟩
        · rw [h'] at h; injection h with h; right; left; exact ⟨_, _, _, _, rfl, hc, hst, h.symm⟩

end Sys2Proof.Machine
end

