-- ==== Sys2Proof/Tests/Slice0.lean ====
section
/-!
SUPPORT. Tests. The expected values are those of 95_test_vectors.md (the V number stands in each docstring) or are read
off the tables of the rule named; none is a result of this model. After the tests: for every statement with hypotheses,
a witness that something meets them.
-/

namespace Sys2Proof.Tests

open Sys2Proof.Machine

/-- The next state satisfies the test; false for a fault or a refusal. -/
def nextHas (o : Host.Outcome State Fault Refusal) (test : State → Bool) : Bool :=
  match o with
  | .next t => test t
  | .fault _ => false
  | .refused _ => false

theorem exists_next {o : Host.Outcome State Fault Refusal} {P : State → Prop} [DecidablePred P]
    (h : nextHas o (fun t => decide (P t)) = true) : ∃ t, o = .next t ∧ P t := by
  cases o with
  | next t => exact ⟨t, rfl, of_decide_eq_true h⟩
  | fault r => cases r
  | refused r => simp [nextHas] at h

/-- The ECMA polynomial of the vectors (G1 of 93_implementation_defined.md). -/
def ecma : Word := 0xC96C5795D7870F42

/-- The reset block after `WR POLY`, `WR OPA`, `WR OPB`, `WR LEN`. -/
def operands (poly opa opb len : Word) : State :=
  { State.reset with poly := poly, opa := opa, opb := opb, len := len }

/-- A matrix whose first rows are listed and whose other rows are 0. -/
def rows (first : List Word) : GF2Matrix := Vector.ofFn fun i : Fin 64 => first.getD i.val 0

/-- `xorall` of 95_test_vectors.md, as the XOR of all rows. -/
def xorAll (m : GF2Matrix) : Word := m.toList.foldl (· ^^^ ·) 0

/-- The state with one event at the port. -/
def present (e : HostEvent) (s : State) : State := { s with pending := [e] }

/-- The step that the CMD write of word `w` is. -/
def runWord (w : Word) (s : State) : Host.Outcome State Fault Refusal :=
  step (present (.request (.busWrite 0x000 w 0xFF)) s)

/-! ## Decoding: the nine words of 30_encoding.md R52, written bit by bit as ZERO, S, OPC -/

theorem test_decode_gf2Apply_0 :
    decode 0b0000000000000000000000000000000000000000000000000000000000000001 = .command (.gf2Apply .m0) := by decide
theorem test_decode_gf2Apply_1 :
    decode 0b0000000000000000000000000000000000000000000000000000000100000001 = .command (.gf2Apply .m1) := by decide
theorem test_decode_gf2Square_0 :
    decode 0b0000000000000000000000000000000000000000000000000000000000000010 = .command (.gf2Square .m0) := by decide
theorem test_decode_gf2Square_1 :
    decode 0b0000000000000000000000000000000000000000000000000000000100000010 = .command (.gf2Square .m1) := by decide
theorem test_decode_zopBase_0 :
    decode 0b0000000000000000000000000000000000000000000000000000000000000011 = .command (.zopBase .m0) := by decide
theorem test_decode_zopBase_1 :
    decode 0b0000000000000000000000000000000000000000000000000000000100000011 = .command (.zopBase .m1) := by decide
theorem test_decode_zopSeed :
    decode 0b0000000000000000000000000000000000000000000000000000000000000100 = .command .zopSeed := by decide
theorem test_decode_crc64Combine :
    decode 0b0000000000000000000000000000000000000000000000000000000000000101 = .command .crc64Combine := by decide
theorem test_decode_adler32Combine :
    decode 0b0000000000000000000000000000000000000000000000000000000000000110 = .command .adler32Combine := by decide

/-- The words of V120 are rejected, each for the reason its line gives. -/
theorem test_decode_rejects :
    decode 0x0 = .illegal .opcodeUnassigned ∧ decode 0x7 = .illegal .opcodeUnassigned ∧
    decode 0xFF = .illegal .opcodeUnassigned ∧ decode 0x104 = .illegal .slotBitSet ∧
    decode 0x105 = .illegal .slotBitSet ∧ decode 0x106 = .illegal .slotBitSet ∧
    decode 0x201 = .illegal .zeroFieldSet ∧ decode 0x8000000000000005 = .illegal .zeroFieldSet ∧
    decode 0x10001 = .illegal .zeroFieldSet ∧ decode 0xFFFFFFFFFFFFFFFF = .illegal .zeroFieldSet := by decide

/-- The bits of the opcode table reach the decoder, and no more than 64 of them are a command word. -/
theorem test_decodeTableWord :
    decodeTableWord 64 0x102 = some (.gf2Square .m1) ∧ decodeTableWord 64 0x005 = some .crc64Combine ∧
    decodeTableWord 16 0x003 = some (.zopBase .m0) ∧ decodeTableWord 64 0x104 = none ∧
    decodeTableWord 72 0x001 = none := by decide

/-- The spelling of R57. -/
theorem test_spelling :
    spelling (.gf2Apply .m1) = "GF2.APPLY 1" ∧ spelling (.zopBase .m0) = "ZOP.BASE 0" ∧
    spelling .crc64Combine = "CRC64.COMBINE" := by decide

/-! ## Well-formedness: an ill-formed term for each check -/

theorem test_wellFormed_word : legalWord 0x101 = true ∧ legalWord 0x105 = false ∧ legalWord 0x201 = false := by decide
theorem test_wellFormed_aligned :
    Transaction.wellFormed (.busRead 0x018) = true ∧ Transaction.wellFormed (.busRead 0x01C) = false ∧
    Transaction.wellFormed (.busWrite 0x004 5 0xFF) = false := by decide
theorem test_wellFormed_mapped :
    Transaction.wellFormed (.busRead 0x200) = true ∧ Transaction.wellFormed (.busRead 0x5F8) = true ∧
    Transaction.wellFormed (.busRead 0x038) = false ∧ Transaction.wellFormed (.busRead 0x1F8) = false ∧
    Transaction.wellFormed (.busWrite 0x600 1 0xFF) = false ∧ Transaction.wellFormed (.busRead 0xFF8) = false := by
  decide
theorem test_wellFormed_fullStrobe :
    Transaction.wellFormed (.busWrite 0x018 1 0xFF) = true ∧ Transaction.wellFormed (.busWrite 0x018 1 0x0F) = false ∧
    Transaction.wellFormed (.busWrite 0x018 1 0x00) = false := by decide
theorem test_wellFormed_writable :
    Transaction.wellFormed (.busRead 0x008) = true ∧ Transaction.wellFormed (.busWrite 0x008 0 0xFF) = false ∧
    Transaction.wellFormed (.busWrite 0x030 0 0xFF) = false := by decide
theorem test_wellFormed_line :
    ScriptLine.wellFormed (.wr .opa 1) = true ∧ ScriptLine.wellFormed (.wr .status 0) = false ∧
    ScriptLine.wellFormed (.wr .res 0) = false ∧ ScriptLine.wellFormed (.rd .res) = true := by decide

/-! ## The commands, one step each -/

/-- V35. -/
theorem test_gf2Apply_small :
    nextHas (runWord 0x001 { operands 0 3 0 0 with m0 := rows [3, 1] })
      (fun t => t.res == 2 && t.status == 0x01 && t.cmd == 0x001 && t.opa == 3) = true := by decide +kernel

/-- V14: slot 1, two rows of the ECMA base operator. -/
theorem test_gf2Apply_slot1 :
    nextHas (runWord 0x101 { operands 0 3 0 0 with m1 := rows [ecma, 1, 2] })
      (fun t => t.res == 0xC96C5795D7870F43 && t.m0 == zeroMatrix) = true := by decide +kernel

/-- V40. -/
theorem test_gf2Square_small :
    nextHas (runWord 0x002 { State.reset with m0 := rows [3, 1] })
      (fun t => t.m1 == rows [2, 3] && t.m0 == rows [3, 1] && t.status == 0x01 && t.res == 0) = true := by
  decide +kernel

/-- V42, from slot 1: every row ones. -/
theorem test_gf2Square_ones :
    nextHas (runWord 0x102 { State.reset with m0 := rows [5], m1 := Vector.replicate 64 (BitVec.allOnes 64) })
      (fun t => t.m0 == zeroMatrix && xorAll t.m1 == 0) = true := by decide +kernel

/-- V50. -/
theorem test_zopBase_ecma :
    nextHas (runWord 0x003 (operands ecma 0 0 0))
      (fun t => t.m0[0] == 0xC96C5795D7870F42 && t.m0[1] == 1 && t.m0[2] == 2 && t.m0[63] == 0x4000000000000000 &&
        xorAll t.m0 == 0xB693A86A2878F0BD && t.m1 == zeroMatrix && t.status == 0x01) = true := by decide +kernel

/-- V53, into slot 1 (V51). -/
theorem test_zopBase_ones :
    nextHas (runWord 0x103 (operands 0xFFFFFFFFFFFFFFFF 0 0 0))
      (fun t => apply t.m1 3 == 0xFFFFFFFFFFFFFFFE && t.m0 == zeroMatrix) = true := by decide +kernel

/-- V54. -/
theorem test_zopSeed_ecma :
    nextHas (runWord 0x004 { operands ecma 0 0 0 with m0 := rows [7], m1 := rows [9] })
      (fun t => xorAll t.m0 == 0x922583A0C3BB771C && xorAll t.m1 == 0x248960E830EEDDC7 &&
        t.m0[0] == 0x64B62BCAEBC387A1 && t.m1[0] == 0x7D9BA13851336649 && t.status == 0x01) = true := by decide +kernel

/-- V55. -/
theorem test_zopSeed_iso :
    nextHas (runWord 0x004 (operands 0xD800000000000000 0 0 0))
      (fun t => t.m0[0] == 0x6C00000000000000 && t.m0[1] == 0xD800000000000000 && t.m0[2] == 1 &&
        t.m1[0] == 0x1B00000000000000 && t.m1[3] == 0xD800000000000000 && t.m1[4] == 1) = true := by decide +kernel

/-- V1, the source's own example, with the slots of V60. -/
theorem test_crc64Combine_source :
    nextHas (runWord 0x005 (operands ecma 0x30232844071CC561 0x07BF00CA16CBD77C 3))
      (fun t => t.res == 318318745347147982 && t.status == 0x01 && xorAll t.m0 == 0xE0525E8C9B98C0A6 &&
        xorAll t.m1 == 0xBDEFB268AEB5A578) = true := by decide +kernel

/-- V68: POLY = 0, three rounds. -/
theorem test_crc64Combine_poly0 :
    nextHas (runWord 0x005 (operands 0 0x30232844071CC561 0x07BF00CA16CBD77C 5))
      (fun t => t.res == 0x07BF00CA16FBF454 && xorAll t.m0 == 0x00000000FFFFFFFF &&
        xorAll t.m1 == 0x0000FFFFFFFFFFFF) = true := by decide +kernel

/-- V108: the operands of V90 with bits above 31 set. -/
theorem test_adler32Combine_digits :
    nextHas (runWord 0x006 (operands 0 0xABCD0000012D0097 0xFFFFFFFF013F00A0 3))
      (fun t => t.res == 0x00000000042E0136 && t.status == 0x01) = true := by decide +kernel

/-- V107: not reduced, bit 32 of the packed value is cut. -/
theorem test_adler32Combine_cut :
    nextHas (runWord 0x006 (operands 0 0x00000000FFFFFFF0 0x00000000FFFF0000 1))
      (fun t => t.res == 0x00000000000BFFEF && t.status == 0x05) = true := by decide +kernel

/-! ## The port -/

/-- V2, V73: the smallest negative length, after a result; only CMD and STATUS change. -/
theorem test_negative_length :
    nextHas (runWord 0x005 { operands 7 8 9 0x8000000000000000 with res := 5, m0 := rows [1] })
      (fun t => decide (t = { operands 7 8 9 0x8000000000000000 with
        cmd := 0x005, status := 0x13, res := 5, m0 := rows [1], response := some (.write .okay) })) = true := by
  decide +kernel

/-- V121: the word is looked at before LEN. -/
theorem test_illegal_before_length :
    nextHas (runWord 0x105 (operands 0 0 0 0xFFFFFFFFFFFFFFFF)) (fun t => t.status == 0x23 && t.cmd == 0x105) = true := by
  decide +kernel

/-- V122 lines 4 and 12: a narrow write is answered ERROR and nothing is stored or run. -/
theorem test_narrow_writes :
    nextHas (transact (.busWrite 0x018 0xAAAAAAAAAAAAAAAA 0x0F) (operands 0 0x1122334455667788 0 0))
      (fun t => t.opa == 0x1122334455667788 && busErrorSeen t) = true ∧
    nextHas (transact (.busWrite 0x000 5 0x01) State.reset)
      (fun t => t.cmd == 0 && t.status == 0 && busErrorSeen t) = true := by decide +kernel

/-- V122 lines 8, 11 and 19: the ends of the mapped ranges. -/
theorem test_mapped_ends :
    nextHas (transact (.busRead 0x038) State.reset) busErrorSeen = true ∧
    nextHas (transact (.busRead 0xFF8) State.reset) busErrorSeen = true ∧
    nextHas (transact (.busRead 0x5F8) { State.reset with m1 := Vector.replicate 64 6 })
      (fun t => t.response == some (.read .okay 6)) = true := by decide +kernel

/-- P4 line 2: the second row of M0 stands at 0x208. -/
theorem test_row_offset :
    nextHas (transact (.busWrite 0x208 1 0xFF) State.reset) (fun t => t.m0 == rows [0, 1] && t.m1 == zeroMatrix) = true :=
  by decide +kernel

/-- V132: reset clears a used block and answers nothing. -/
theorem test_reset :
    nextHas (step (present .reset { operands 1 2 3 4 with res := 5, status := 1, m0 := rows [6] }))
      (fun t => decide (t = State.reset)) = true := by decide +kernel

/-- The block takes the word that `withFetchWord` places as its first instruction after reset (V131). -/
theorem test_withFetchWord :
    nextHas (step (State.reset.withFetchWord 64 0x006)) (fun t => t.res == 0xFFF0 && t.cmd == 0x006) = true ∧
    nextHas (step (State.reset.withFetchWord 64 0x003)) (fun t => t.m0[63] == 0x4000000000000000) = true := by
  decide +kernel

/-- The byte order of the checksum definitions G2 and G3 of 93_implementation_defined.md, on V1's and V90's strings. -/
theorem test_checksums :
    crc64 ecma [0x31, 0x32, 0x33] = 3468660410647627105 ∧ adler32 [0x31, 0x32, 0x33] = 0x012D0097 := by decide +kernel

/-! ## Witnesses: for every statement with hypotheses, something that meets them, clause by clause -/

section witnesses

theorem witness_DecodeReadsExactlyTheEncodedWord :
    decode 0x103 = .command (.zopBase .m1) ∧ (0x103 : Word) = encode (.zopBase .m1) := by decide

/-- The clauses in order, each at the ends of its range. -/
theorem witness_DecodeFollowsOpcSlotAndZero :
    (∀ k ∈ [0x201, 0x306, 0x8000000000000005], (BitVec.ofNat 64 k).toNat / 512 ≠ 0) ∧
    (∀ k ∈ [0x001, 0x101], (BitVec.ofNat 64 k).toNat / 512 = 0 ∧ (BitVec.ofNat 64 k).toNat % 256 = 1) ∧
    (∀ k ∈ [0x002, 0x102], (BitVec.ofNat 64 k).toNat / 512 = 0 ∧ (BitVec.ofNat 64 k).toNat % 256 = 2) ∧
    (∀ k ∈ [0x003, 0x103], (BitVec.ofNat 64 k).toNat / 512 = 0 ∧ (BitVec.ofNat 64 k).toNat % 256 = 3) ∧
    (∀ k ∈ [4, 5, 6], (BitVec.ofNat 64 k).toNat / 512 = 0 ∧ (BitVec.ofNat 64 k).toNat % 256 = k ∧
      (BitVec.ofNat 64 k).toNat / 256 % 2 = 0) ∧
    (∀ k ∈ [0x104, 0x105, 0x106], (BitVec.ofNat 64 k).toNat / 512 = 0 ∧
      (BitVec.ofNat 64 k).toNat % 256 ∈ [4, 5, 6] ∧ (BitVec.ofNat 64 k).toNat / 256 % 2 = 1) ∧
    ∀ k ∈ [0x000, 0x100, 0x007, 0x107, 0x0FF, 0x1FF],
      (BitVec.ofNat 64 k).toNat / 512 = 0 ∧ (BitVec.ofNat 64 k).toNat % 256 ∉ [1, 2, 3, 4, 5, 6] := by decide

/-- Each of the four conditions of R55, at its ends; a word that meets none; V120. -/
theorem witness_IllegalWordSetsCmdAndStatusOnly :
    (∀ k ∈ [0x200, 0x201, 0x8000000000000005], (BitVec.ofNat 64 k).extractLsb' 9 55 ≠ 0) ∧
    (∀ k ∈ [0x000, 0x100], (BitVec.ofNat 64 k).extractLsb' 0 8 = 0x00) ∧
    (∀ k ∈ [0x007, 0x107, 0x0FF, 0x1FF], 0x07 ≤ ((BitVec.ofNat 64 k).extractLsb' 0 8).toNat) ∧
    (∀ k ∈ [0x104, 0x105, 0x106], (BitVec.ofNat 64 k).extractLsb' 0 8 ∈ [(0x04 : BitVec 8), 0x05, 0x06] ∧
      (BitVec.ofNat 64 k).getLsbD 8 = true) ∧
    (0x006 : Word) ∈ legalWords := by decide

theorem witness_StepRunsTheDecodedCommand :
    (present (.request (.busWrite 0x000 0x005 0xFF)) (operands 1 2 3 4)).pending =
      .request (.busWrite 0x000 0x005 0xFF) :: [] ∧ decode 0x005 = .command .crc64Combine := by decide

theorem witness_StepTakesTheOldestEvent :
    ({ State.reset with pending := [.request (.busRead 0x008), .reset] } : State).pending =
      .request (.busRead 0x008) :: [.reset] := rfl

theorem witness_WaitingBlockKeepsItsState : (operands 1 2 3 4).pending = [] := rfl

/-- The four cases, each at the ends of its range. -/
theorem witness_BadAccessGetsErrorAndChangesNothing :
    (∀ n ∈ [0x001, 0x007, 0x01C, 0xFFF], (BitVec.ofNat 12 n).toNat % 8 ≠ 0) ∧
    (∀ n ∈ [0x038, 0x1F8, 0x1FF], 0x038 ≤ (BitVec.ofNat 12 n).toNat ∧ (BitVec.ofNat 12 n).toNat ≤ 0x1FF) ∧
    (∀ n ∈ [0x600, 0xFF8, 0xFFF], 0x600 ≤ (BitVec.ofNat 12 n).toNat ∧ (BitVec.ofNat 12 n).toNat ≤ 0xFFF) ∧
    (∀ n ∈ [0x00, 0x0F, 0x7F, 0xFE], BitVec.ofNat 8 n ≠ (0xFF : Strobe)) ∧
    (0x008 : Offset).toNat = 0x008 ∧ (0x030 : Offset).toNat = 0x030 := by decide

/-- A transaction of each kind, ill formed and well formed. -/
theorem witness_ErrorResponseIffIllFormed :
    (∃ u, transact (.busRead 0x038) State.reset = .next u ∧ busErrorSeen u = true) ∧
    (∃ u, transact (.busRead 0x030) State.reset = .next u ∧ busErrorSeen u = false) ∧
    (∃ u, transact (.busWrite 0x008 0 0xFF) State.reset = .next u ∧ busErrorSeen u = true) ∧
    ∃ u, transact (.busWrite 0x000 0x105 0xFF) State.reset = .next u ∧ busErrorSeen u = false :=
  ⟨exists_next (by decide +kernel), exists_next (by decide +kernel), exists_next (by decide +kernel),
    exists_next (by decide +kernel)⟩

/-- A read, a write, an abandoned write. -/
theorem witness_ResponseAnswersTheRequest :
    (∃ t, step (present (.request (.busRead 0x5F8)) State.reset) = .next t ∧ t.response ≠ none) ∧
    (∃ t, step (present (.request (.busWrite 0x010 ecma 0xFF)) State.reset) = .next t ∧ t.response ≠ none) ∧
    ∃ t, step (present (.resetDuring (.busWrite 0x010 ecma 0xFF)) State.reset) = .next t ∧ t.response = none :=
  ⟨exists_next (by decide +kernel), exists_next (by decide +kernel), exists_next (by decide +kernel)⟩

theorem witness_WindowBytesAreLittleEndian : (0 < 8 ∧ 7 < 8) ∧ byteLane 0x1122334455667788 7 = 0x11 := by decide

theorem witness_ScriptLinesAreGoodTransactions :
    ScriptLine.wellFormed (.wr .cmd 0x106) = true ∧ ScriptLine.wellFormed (.wr (.row .m1 63) 1) = true ∧
    ScriptLine.wellFormed (.rd .status) = true ∧ ScriptLine.wellFormed (.command (.gf2Apply .m1)) = true := by decide

/-- Two matrices that differ in a row the vector does not reach; and k = 64, where every row takes part. -/
theorem witness_EarlyExitSkipsNothing :
    ((5 : Word) >>> 3 = 0 ∧ (∀ i : Fin 64, i.val < 3 → (rows [1, 2, 4])[i] = (rows [1, 2, 4, 9])[i])) ∧
    (BitVec.allOnes 64 : Word) >>> 64 = 0 := by decide +kernel

/-- The base operator itself stands for one zero bit. -/
theorem witness_SquareComposes : ∀ v : Word, apply (buildBase ecma) v = (apply (buildBase ecma))^[1] v := fun _ => rfl

theorem witness_Gf2ApplyWritesRes :
    (operands 0 0 0 0).opa = 0 ∧ (operands 0 1 0 0).opa = (1 : Word) <<< (0 : Fin 64).val ∧
    (operands 0 0x8000000000000000 0 0).opa = (1 : Word) <<< (63 : Fin 64).val ∧
    (operands 0 0xFFFFFFFFFFFFFFFF 0 0).opa = BitVec.allOnes 64 ∧
    (∀ i : Fin 64, State.reset.m0[i] = 0) ∧ ∀ i : Fin 64, State.reset.m1[i] = 0 := by decide +kernel

theorem witness_ZopBaseWritesTheSlot : 1 ≤ (1 : Fin 64).val ∧ 1 ≤ (63 : Fin 64).val := by decide

theorem witness_PowerOfBaseHasShiftedRows : (1 ≤ 1 ∧ 1 ≤ 64) ∧ (1 ≤ 64 ∧ 64 ≤ 64) := by decide

theorem witness_SameMapSameMatrix : ∀ v : Word, apply (rows [3, 1]) v = apply (rows [3, 1, 0]) v := by
  have h : rows [3, 1] = rows [3, 1, 0] := by decide +kernel
  intro v; rw [h]

/-- LEN = -1 and the smallest negative length (V72, V73). -/
theorem witness_NegativeLengthSetsCmdAndStatusOnly :
    (operands 1 2 3 0xFFFFFFFFFFFFFFFF).len.getLsbD 63 = true ∧
    (operands 1 2 3 0x8000000000000000).len.getLsbD 63 = true := by decide

/-- LEN = 0, 1 and the largest length (V61, V62, V66). -/
theorem lengths_not_negative :
    (operands 1 2 3 0).len.getLsbD 63 = false ∧ (operands 1 2 3 1).len.getLsbD 63 = false ∧
    (operands 1 2 3 0x7FFFFFFFFFFFFFFF).len.getLsbD 63 = false := by decide

theorem witness_Crc64CombineClocksZeroBytes : (operands ecma 2 3 0x7FFFFFFFFFFFFFFF).len.getLsbD 63 = false :=
  lengths_not_negative.2.2
theorem witness_Crc64CombineLeavesPowersInTheSlots : (operands 1 2 3 0).len.getLsbD 63 = false :=
  lengths_not_negative.1
theorem witness_LadderRunsOneRoundPerBit : (0x7FFFFFFFFFFFFFFF : Word).getLsbD 63 = false := by decide
theorem witness_Crc64CombineCornerCases :
    ((operands ecma 2 3 0).len.getLsbD 63 = false ∧ (operands ecma 2 3 0).len = 0) ∧
    ((operands ecma 0 3 5).len.getLsbD 63 = false ∧ (operands ecma 0 3 5).opa = 0) ∧
    ((operands ecma 2 0 5).len.getLsbD 63 = false ∧ (operands ecma 2 0 5).opb = 0) ∧
    ((operands 0 2 3 5).len.getLsbD 63 = false ∧ (operands 0 2 3 5).poly = 0) := by decide
theorem witness_Crc64CombineLengthsAdd :
    (5 : Word).toNat + (9 : Word).toNat < 2 ^ 63 ∧ (0x7FFFFFFFFFFFFFFF : Word).toNat + (0 : Word).toNat < 2 ^ 63 := by
  decide
theorem witness_Crc64CombineIsAffine : (operands ecma 2 3 5).len.getLsbD 63 = false := by decide
theorem witness_Crc64CombineEqualsItsScript : (operands 1 2 3 1).len.getLsbD 63 = false := lengths_not_negative.2.1

/-- Two sequences of three bytes; and B empty. -/
theorem witness_Crc64CombineGivesCrcOfConcatenation : ∀ b ∈ [[(0x34 : Byte), 0x35, 0x36], []],
    let s := operands ecma (crc64 ecma [0x31, 0x32, 0x33]) (crc64 ecma b) (BitVec.ofNat 64 b.length)
    b.length < 2 ^ 63 ∧ s.opa = crc64 s.poly [0x31, 0x32, 0x33] ∧ s.opb = crc64 s.poly b ∧
      s.len = BitVec.ofNat 64 b.length := by
  intro b hb
  have hl : b.length < 2 ^ 63 := by
    rcases List.mem_cons.1 hb with rfl | hb
    · decide
    · rw [List.mem_singleton.1 hb]; decide
  exact ⟨hl, rfl, rfl, rfl⟩

theorem witness_Adler32CombineFollowsItsPseudocode :
    (operands 0 2 3 0x8000000000000000).len.getLsbD 63 = true ∧
    (operands 0 2 3 0x7FFFFFFFFFFFFFFF).len.getLsbD 63 = false := by decide

/-- All four halves at 65520, and at 0. -/
theorem witness_Adler32ReducedInputsGiveReducedOutput :
    ∀ s ∈ [operands 0 0xFFF0FFF0 0xFFF0FFF0 65520, operands 0 0 0 0],
      s.len.getLsbD 63 = false ∧ s.opa.toNat % 65536 < 65521 ∧ s.opa.toNat / 65536 % 65536 < 65521 ∧
      s.opb.toNat % 65536 < 65521 ∧ s.opb.toNat / 65536 % 65536 < 65521 := by decide +kernel

theorem witness_Adler32IntermediatesStayInRange : 0 < 65521 ∧ 65520 < 65521 := by decide

/-- Both sums small; and, in V103, a `sum1` that does not fit 16 bits. -/
theorem witness_Adler32ResultIsTheLow32Bits :
    let s := operands 0 0x012D0097 0x013F00A0 3
    s.len.getLsbD 63 = false ∧ adlerSum1 (adler1Operand s) (adler2Operand s) < 65536 ∧
      adlerSum2 (adler1Operand s) (adler2Operand s) (adlerRem s.len) < 65536 := by decide +kernel

theorem witness_Adler32IgnoresUpperOperandBits :
    (0xABCD0000012D0097 : Word).extractLsb' 0 32 = (operands 0 0x012D0097 0x013F00A0 3).opa.extractLsb' 0 32 ∧
    (0xFFFFFFFF013F00A0 : Word).extractLsb' 0 32 = (operands 0 0x012D0097 0x013F00A0 3).opb.extractLsb' 0 32 := by
  decide

/-- An OPA with both halves at 65520; the multiples 0, 1 and the largest. -/
theorem witness_Adler32CornerCases :
    (let s := operands 0 0xFFF0FFF0 1 0
     s.len = 0 ∧ s.opb = 1 ∧ s.opa.toNat < 2 ^ 32 ∧ s.opa.toNat % 65536 < 65521 ∧ s.opa.toNat / 65536 < 65521) ∧
    0 * 65521 < 2 ^ 63 ∧ 1 * 65521 < 2 ^ 63 ∧ (2 ^ 63 - 1) / 65521 * 65521 < 2 ^ 63 := by decide

/-- The strings of V90, and B empty. -/
theorem witness_Adler32CombineGivesAdlerOfConcatenation : ∀ b ∈ [[(0x34 : Byte), 0x35, 0x36], []],
    let s := operands 0 ((adler32 [0x31, 0x32, 0x33]).setWidth 64) ((adler32 b).setWidth 64) (BitVec.ofNat 64 b.length)
    b.length < 2 ^ 63 ∧ s.opa.extractLsb' 0 32 = adler32 [0x31, 0x32, 0x33] ∧ s.opb.extractLsb' 0 32 = adler32 b ∧
      s.len = BitVec.ofNat 64 b.length := by decide +kernel

/-- A state as `ADLER32.COMBINE` leaves it, with a command to run next; and one with an error. -/
theorem witness_EveryStepKeepsStatusConsistent :
    (Consistent (present (.request (.busWrite 0x000 0x101 0xFF))
        { State.reset with cmd := 0x006, status := 0x05, res := 0xFFF0 }) ∧
      ∃ t, step (present (.request (.busWrite 0x000 0x101 0xFF))
        { State.reset with cmd := 0x006, status := 0x05, res := 0xFFF0 }) = .next t ∧ t.status = 0x01) ∧
    (Consistent (present (.request (.busWrite 0x000 0x104 0xFF)) { State.reset with cmd := 0x005, status := 0x13 }) ∧
      ∃ t, step (present (.request (.busWrite 0x000 0x104 0xFF)) { State.reset with cmd := 0x005, status := 0x13 }) =
        .next t ∧ t.status = 0x23) :=
  ⟨⟨by decide +kernel, exists_next (by decide +kernel)⟩, by decide +kernel, exists_next (by decide +kernel)⟩

theorem witness_StatusBitsObeyTheirRules :
    let s := present (.request (.busRead 0x008)) { State.reset with cmd := 0x007, status := 0x23 }
    Consistent s ∧ statusDone s.status = true ∧ (∀ e, nextEvent s = some e → isReset e = false) ∧
      ∃ t, step s = .next t ∧ statusDone t.status = true := by
  refine ⟨by decide +kernel, by decide, ?_, exists_next (by decide +kernel)⟩
  intro e he; cases he; rfl

/-- The two commands that can end with an error. -/
theorem witness_CommandErrorsArePrecise :
    (∃ t, exec .crc64Combine (operands 1 2 3 0xFFFFFFFFFFFFFFFF) = .next t ∧ statusErr t.status = true) ∧
    ∃ t, exec .adler32Combine (operands 1 2 3 0x8000000000000000) = .next t ∧ statusErr t.status = true :=
  ⟨exists_next (by decide +kernel), exists_next (by decide +kernel)⟩

/-- RES changes by a command, and by a reset. -/
theorem witness_ResChangesOnlyByItsCommands :
    (∃ t, step (present (.request (.busWrite 0x000 0x001 0xFF)) { operands 0 1 0 0 with m0 := rows [7] }) = .next t ∧
      t.res ≠ ({ operands 0 1 0 0 with m0 := rows [7] } : State).res) ∧
    ∃ t, step (present .reset { State.reset with res := 5 }) = .next t ∧ t.res ≠ 5 :=
  ⟨exists_next (by decide +kernel), exists_next (by decide +kernel)⟩

/-- A slot changes by a reset, by a row write, and by each of the four commands. -/
theorem witness_SlotsChangeOnlyByTheirCommands :
    (∃ t, step (present .reset { State.reset with m0 := rows [3] }) = .next t ∧ slot .m0 t ≠ rows [3]) ∧
    (∃ t, step (present (.request (.busWrite 0x5F8 1 0xFF)) State.reset) = .next t ∧ slot .m1 t ≠ zeroMatrix) ∧
    (∃ t, step (present (.request (.busWrite 0x000 0x102 0xFF)) { State.reset with m1 := rows [3, 1] }) = .next t ∧
      slot .m0 t ≠ zeroMatrix) ∧
    (∃ t, step (present (.request (.busWrite 0x000 0x003 0xFF)) State.reset) = .next t ∧ slot .m0 t ≠ zeroMatrix) ∧
    (∃ t, step (present (.request (.busWrite 0x000 0x004 0xFF)) State.reset) = .next t ∧ slot .m1 t ≠ zeroMatrix) ∧
    ∃ t, step (present (.request (.busWrite 0x000 0x005 0xFF)) State.reset) = .next t ∧ slot .m1 t ≠ zeroMatrix :=
  ⟨exists_next (by decide +kernel), exists_next (by decide +kernel), exists_next (by decide +kernel),
    exists_next (by decide +kernel), exists_next (by decide +kernel), exists_next (by decide +kernel)⟩

/-- STATUS and CMD change by a CMD write, legal or not, and by a reset. -/
theorem witness_StatusAndCmdChangeOnlyByCmdWrites :
    (∃ t, step (present (.request (.busWrite 0x000 0x002 0xFF)) State.reset) = .next t ∧ (t.status ≠ 0 ∨ t.cmd ≠ 0)) ∧
    (∃ t, step (present (.request (.busWrite 0x000 0x000 0xFF)) State.reset) = .next t ∧ (t.status ≠ 0 ∨ t.cmd ≠ 0)) ∧
    ∃ t, step (present .reset { State.reset with cmd := 0x006, status := 0x01 }) = .next t ∧
      (t.status ≠ 0x01 ∨ t.cmd ≠ 0x006) :=
  ⟨exists_next (by decide +kernel), exists_next (by decide +kernel), exists_next (by decide +kernel)⟩

/-- Two states with the same operands and everything else different; the length is not negative. -/
theorem witness_WholeCallCommandsIgnoreWhatCameBefore :
    let s := operands ecma 2 3 0x7FFFFFFFFFFFFFFF
    let s' := { s with m0 := rows [3], m1 := rows [4], res := 5, status := 0x13, cmd := 0x005 }
    s ≠ s' ∧ s.poly = s'.poly ∧ s.opa = s'.opa ∧ s.opb = s'.opb ∧ s.len = s'.len ∧ s.len.getLsbD 63 = false := by
  decide +kernel

end witnesses

end Sys2Proof.Tests
end

/-!
PROOFS. The state family (10_state.md): what STATUS tells of CMD and RES, reset, and what commands read and leave alone.
-/

namespace Sys2Proof

section commandWords

theorem decode_encode (i : Instr) : decode (encode i) = .command i := by
  cases i with
  | gf2Apply sl => exact Laws.EncodedWordDecodes.gf2Apply sl rfl
  | gf2Square sl => exact Laws.EncodedWordDecodes.gf2Square sl rfl
  | zopBase sl => exact Laws.EncodedWordDecodes.zopBase sl rfl
  | zopSeed => exact Laws.EncodedWordDecodes.zopSeed rfl
  | crc64Combine => exact Laws.EncodedWordDecodes.crc64Combine rfl
  | adler32Combine => exact Laws.EncodedWordDecodes.adler32Combine rfl

theorem legalWord_encode (i : Instr) : legalWord (encode i) = true := by
  cases i with
  | gf2Apply sl => exact Laws.EncodedWordIsLegal.gf2Apply sl
  | gf2Square sl => exact Laws.EncodedWordIsLegal.gf2Square sl
  | zopBase sl => exact Laws.EncodedWordIsLegal.zopBase sl
  | zopSeed => exact Laws.EncodedWordIsLegal.zopSeed
  | crc64Combine => exact Laws.EncodedWordIsLegal.crc64Combine
  | adler32Combine => exact Laws.EncodedWordIsLegal.adler32Combine

theorem encode_injective : Function.Injective encode := by
  intro i j h
  have hd : Decoded.command i = .command j := by rw [← decode_encode i, ← decode_encode j, h]
  exact Decoded.command.inj hd

/-- The format N rows of R51: the command is read only from a word whose slot bit is 0. -/
theorem decodeFormatN_eq_command {w : Word} {i j : Instr} (h : decodeFormatN w i = .command j) :
    slotBit w = false ∧ j = i := by
  unfold decodeFormatN at h
  split at h
  · cases h
  · next hs => exact ⟨Bool.eq_false_iff.2 hs, (Decoded.command.inj h).symm⟩

/-- Only the word of a command decodes to it (R51, R52). -/
theorem eq_encode_of_decode {w : Word} {i : Instr} (h : decode w = .command i) : w = encode i := by
  unfold decode at h
  split at h
  · cases h
  · next hz =>
    rw [eq_wordOfFields (not_not.1 hz)]
    split_ifs at h with h1 h2 h3 h4 h5 h6
    · cases h; simp [encode, h1]
    · cases h; simp [encode, h2]
    · cases h; simp [encode, h3]
    · obtain ⟨hs, rfl⟩ := decodeFormatN_eq_command h; simp [encode, h4, hs]
    · obtain ⟨hs, rfl⟩ := decodeFormatN_eq_command h; simp [encode, h5, hs]
    · obtain ⟨hs, rfl⟩ := decodeFormatN_eq_command h; simp [encode, h6, hs]

/-- The nine legal words are the words of the commands (R52). -/
theorem legalWord_iff_exists_encode (w : Word) : legalWord w = true ↔ ∃ i, w = encode i := by
  constructor
  · intro h
    simp only [legalWord, legalWords, List.contains_iff_mem, List.mem_cons, List.not_mem_nil, or_false] at h
    rcases h with rfl | rfl | rfl | rfl | rfl | rfl | rfl | rfl | rfl
    · exact ⟨.gf2Apply .m0, by decide⟩
    · exact ⟨.gf2Apply .m1, by decide⟩
    · exact ⟨.gf2Square .m0, by decide⟩
    · exact ⟨.gf2Square .m1, by decide⟩
    · exact ⟨.zopBase .m0, by decide⟩
    · exact ⟨.zopBase .m1, by decide⟩
    · exact ⟨.zopSeed, by decide⟩
    · exact ⟨.crc64Combine, by decide⟩
    · exact ⟨.adler32Combine, by decide⟩
  · rintro ⟨i, rfl⟩
    exact legalWord_encode i

/-- A word the decoder rejects is none of the nine (R55). -/
theorem legalWord_eq_false_of_decode_illegal {w : Word} {why : IllegalReason} (h : decode w = .illegal why) :
    legalWord w = false := by
  rw [Bool.eq_false_iff]
  intro hl
  obtain ⟨i, rfl⟩ := (legalWord_iff_exists_encode w).1 hl
  rw [decode_encode] at h
  cases h

end commandWords

end Sys2Proof

namespace Sys2Proof.Machine

section commandFrame

/-- What no command writes (R22): the operands, CMD and the port. -/
theorem exec_frame {i : Instr} {s t : State} (h : exec i s = .next t) :
    t.poly = s.poly ∧ t.opa = s.opa ∧ t.opb = s.opb ∧ t.len = s.len ∧
    t.cmd = s.cmd ∧ t.pending = s.pending ∧ t.response = s.response ∧ t.draws = s.draws := by
  rcases exec_cases h with ⟨_, _, rfl⟩ | ⟨_, _, rfl⟩ | ⟨_, _, rfl⟩ | ⟨_, _, rfl⟩ | ⟨_, rfl⟩ | ⟨_, _, rfl⟩ | ⟨_, _, rfl⟩ <;>
    simp

theorem exec_cmd {i : Instr} {s t : State} (h : exec i s = .next t) : t.cmd = s.cmd := by
  obtain ⟨_, _, _, _, hcmd, _⟩ := exec_frame h
  exact hcmd

/-- `zext_64(r)` of R91 leaves bits 63:32 zero (R93). -/
theorem setWidth_64_toNat_lt (r : BitVec 32) : (r.setWidth 64).toNat < 2 ^ 32 := by
  rw [BitVec.toNat_setWidth_of_le (by decide)]
  exact r.isLt

/-- The values a command can leave in STATUS (R25), each with the commands that can leave it there; and what a
successful `ADLER32.COMBINE` leaves in RES (R93). -/
theorem exec_status {i : Instr} {s t : State} (h : exec i s = .next t) :
    (t.status = 0x13 ∧ (i = .crc64Combine ∨ i = .adler32Combine)) ∨
    (t.status = 0x01 ∧ i ≠ .adler32Combine) ∨
    ((t.status = 0x01 ∨ t.status = 0x05) ∧ i = .adler32Combine ∧ t.res.toNat < 2 ^ 32) := by
  rcases exec_cases h with
    ⟨hi, _, rfl⟩ | ⟨_, rfl, rfl⟩ | ⟨_, rfl, rfl⟩ | ⟨_, rfl, rfl⟩ | ⟨rfl, rfl⟩ | ⟨rfl, _, rfl⟩ | ⟨rfl, _, rfl⟩
  case inl => exact .inl ⟨errorStatus_invalidLength, hi⟩
  case inr.inr.inr.inr.inr.inr =>
    refine .inr (.inr ⟨?_, rfl, setWidth_64_toNat_lt _⟩)
    rw [succeed_status]
    cases adlerUnreduced (adler1Operand s) (adler2Operand s)
    · exact .inl successStatus_false
    · exact .inr successStatus_true
  all_goals exact .inr (.inl ⟨successStatus_false, Instr.noConfusion⟩)

end commandFrame

section statusConsistent

/-- Consistency is about STATUS, CMD and RES only. -/
theorem Consistent.congr {s t : State} (hs : Consistent s) (hcmd : t.cmd = s.cmd) (hstatus : t.status = s.status)
    (hres : t.res = s.res) : Consistent t := by
  unfold Consistent
  rw [hcmd, hstatus, hres]
  exact hs

/-- A block whose registers are as reset leaves them (R29). -/
theorem consistent_of_cleared {t : State} (hcmd : t.cmd = 0) (hstatus : t.status = 0) (hres : t.res = 0) :
    Consistent t := by
  simp [Consistent, hcmd, hstatus, hres, reachableStatus]

/-- A success of a command other than `ADLER32.COMBINE`, or of that command with reduced inputs (R25, R93). -/
theorem consistent_of_success {i : Instr} {t : State} (hcmd : t.cmd = encode i) (hstatus : t.status = 0x01)
    (hres : encode i = 0x006 → t.res.toNat < 2 ^ 32) : Consistent t := by
  simpa [Consistent, reachableStatus, hcmd, hstatus, legalWord_encode] using hres

/-- A success of `ADLER32.COMBINE` with an input that was not reduced (R25, R93). -/
theorem consistent_of_unreduced {t : State} (hcmd : t.cmd = 0x006) (hstatus : t.status = 0x05)
    (hres : t.res.toNat < 2 ^ 32) : Consistent t := by
  simpa [Consistent, reachableStatus, hcmd, hstatus] using hres

/-- InvalidLength, which only the two combines raise (R101). -/
theorem consistent_of_invalidLength {t : State} (hcmd : t.cmd = 0x005 ∨ t.cmd = 0x006) (hstatus : t.status = 0x13) :
    Consistent t := by
  simpa [Consistent, reachableStatus, hstatus] using hcmd

/-- IllegalCommand (R101). -/
theorem consistent_of_illegalCommand {t : State} (hcmd : legalWord t.cmd = false) (hstatus : t.status = 0x23) :
    Consistent t := by
  simpa [Consistent, reachableStatus, hstatus] using hcmd

/-- A command word run on any state leaves STATUS consistent: nothing is asked of what STATUS held before (R25). -/
theorem consistent_of_runCommand {w : Word} {s u : State} (h : runCommand w s = .next u) : Consistent u := by
  rcases runCommand_cases h with ⟨why, hd, rfl⟩ | ⟨i, hd, hx⟩
  · exact consistent_of_illegalCommand (legalWord_eq_false_of_decode_illegal hd) errorStatus_illegalCommand
  · obtain rfl := eq_encode_of_decode hd
    have hcmd : u.cmd = encode i := exec_cmd hx
    have hcrc : encode .crc64Combine = 0x005 := by decide
    have hadler : encode .adler32Combine = 0x006 := by decide
    rcases exec_status hx with ⟨hstatus, rfl | rfl⟩ | ⟨hstatus, hi⟩ | ⟨hstatus | hstatus, rfl, hres⟩
    · exact consistent_of_invalidLength (.inl (hcmd.trans hcrc)) hstatus
    · exact consistent_of_invalidLength (.inr (hcmd.trans hadler)) hstatus
    · exact consistent_of_success hcmd hstatus fun he => absurd (encode_injective (he.trans hadler.symm)) hi
    · exact consistent_of_success hcmd hstatus fun _ => hres
    · exact consistent_of_unreduced (hcmd.trans hadler) hstatus hres

/-- A command word always leaves DONE set (R25). -/
theorem statusDone_of_runCommand {w : Word} {s u : State} (h : runCommand w s = .next u) :
    statusDone u.status = true := by
  rcases runCommand_cases h with ⟨_, _, rfl⟩ | ⟨_, _, hx⟩
  · rw [raise_status]; decide
  · rcases exec_status hx with ⟨hst, _⟩ | ⟨hst, _⟩ | ⟨hst | hst, _⟩ <;> rw [hst] <;> decide

/-- The host can store into neither STATUS nor RES (R38), and into CMD only by running a command word (R37). -/
theorem storeReg_keeps {r : WindowReg} {v : Word} {s t : State} (h : storeReg r v s = some t) (hr : r ≠ .cmd) :
    t.cmd = s.cmd ∧ t.status = s.status ∧ t.res = s.res := by
  have hstatus : r ≠ .status := fun hc => by simp [(storeReg_eq_none_iff r v s).2 (.inl hc)] at h
  have hres : r ≠ .res := fun hc => by simp [(storeReg_eq_none_iff r v s).2 (.inr hc)] at h
  have hread := readReg_storeReg h
  refine ⟨(hread .cmd).trans (if_neg hr.symm), (hread .status).trans (if_neg hstatus.symm),
    (hread .res).trans (if_neg hres.symm)⟩

theorem busRead_keeps (off : Offset) (s : State) :
    (busRead off s).cmd = s.cmd ∧ (busRead off s).status = s.status ∧ (busRead off s).res = s.res := by
  unfold busRead
  split <;> simp

/-- What a step can do to CMD, STATUS and RES: leave them, clear them by a reset, or run a command word. -/
theorem step_cmd_status_res {s t : State} (h : step s = .next t) :
    (t.cmd = s.cmd ∧ t.status = s.status ∧ t.res = s.res) ∨
    (∃ e, nextEvent s = some e ∧ isReset e = true ∧ t.cmd = 0 ∧ t.status = 0 ∧ t.res = 0) ∨
    ∃ w rest u, s.pending = .request (commandWrite w) :: rest ∧ runCommand w { s with pending := rest } = .next u ∧
      t.cmd = u.cmd ∧ t.status = u.status ∧ t.res = u.res := by
  rcases step_cases h with ⟨_, rfl⟩ | ⟨e, rest, hp, he, rfl⟩ | ⟨off, rest, _, rfl⟩ | ⟨_, _, _, _, _, rfl⟩ |
    ⟨r, data, rest, u, _, hr, hst, rfl⟩ | ⟨w, rest, u, hp, hw, rfl⟩
  · exact .inl ⟨rfl, rfl, rfl⟩
  · exact .inr (.inl ⟨e, by simp [nextEvent, hp], he, rfl, rfl, rfl⟩)
  · exact .inl (busRead_keeps off { s with pending := rest })
  · exact .inl ⟨rfl, rfl, rfl⟩
  · have hkeep := storeReg_keeps hst hr
    exact .inl hkeep
  · exact .inr (.inr ⟨w, rest, u, hp, hw, rfl, rfl, rfl⟩)

/-- Settles O47: a step leaves CMD, STATUS and RES, clears them, or runs a command word, which needs nothing of the state
before. -/
theorem everyStepKeepsStatusConsistent : Obligations.EveryStepKeepsStatusConsistent := by
  intro s t hs h
  rcases step_cmd_status_res h with
    ⟨hcmd, hstatus, hres⟩ | ⟨_, _, _, hcmd, hstatus, hres⟩ | ⟨_, _, _, _, hw, hcmd, hstatus, hres⟩
  · exact hs.congr hcmd hstatus hres
  · exact consistent_of_cleared hcmd hstatus hres
  · exact (consistent_of_runCommand hw).congr hcmd hstatus hres

/-- Settles O48. -/
theorem resetIsConsistent : Obligations.ResetIsConsistent := consistent_of_cleared rfl rfl rfl

/-- R26 on the five values of STATUS. -/
theorem statusBits_of_reachable :
    ∀ w ∈ reachableStatus, (statusErr w = true ↔ statusEcode w ≠ 0) ∧ (statusUnred w = true → statusErr w = false) := by
  intro w hw
  simp only [reachableStatus, List.mem_cons, List.not_mem_nil, or_false] at hw
  rcases hw with rfl | rfl | rfl | rfl | rfl <;> decide

/-- Settles O49: the first two clauses hold of each of the five values; DONE stays where STATUS stays, and every command
word sets it. -/
theorem statusBitsObeyTheirRules : Obligations.StatusBitsObeyTheirRules := by
  intro s hs
  obtain ⟨hmem, _⟩ := hs
  obtain ⟨herr, hunred⟩ := statusBits_of_reachable _ hmem
  refine ⟨herr, hunred, fun t h hdone hnoReset => ?_⟩
  rcases step_cmd_status_res h with ⟨_, hstatus, _⟩ | ⟨e, he, hreset, _⟩ | ⟨_, _, _, _, hw, _, hstatus, _⟩
  · rw [hstatus, hdone]
  · rw [hnoReset e he] at hreset; cases hreset
  · rw [hstatus]; exact statusDone_of_runCommand hw

end statusConsistent

section productOverGF2

/-- One more changes the parity. -/
theorem decide_succ_odd (n : Nat) : decide ((n + 1) % 2 = 1) = !decide (n % 2 = 1) := by
  rw [← decide_not, decide_eq_decide]
  omega

/-- A bit of an XOR of selected words is the parity of the number of selected words that have it. -/
theorem getLsbD_foldl_xor {ι : Type} (l : List ι) (sel : ι → Bool) (f : ι → Word) (acc : Word) (j : Nat) :
    (l.foldl (fun acc i => if sel i then acc ^^^ f i else acc) acc).getLsbD j =
      (acc.getLsbD j ^^ decide (l.countP (fun i => sel i && (f i).getLsbD j) % 2 = 1)) := by
  induction l generalizing acc with
  | nil => simp
  | cons i l ih =>
    rw [List.foldl_cons, ih, List.countP_cons]
    cases hsel : sel i with
    | false => simp
    | true =>
      cases hbit : (f i).getLsbD j with
      | false => simp [hbit]
      | true => simp [hbit, decide_succ_odd]

/-- Counting down the list of all indices counts the set of them. -/
theorem countP_finRange (n : Nat) (p : Fin n → Bool) :
    (List.finRange n).countP p = (Finset.univ.filter fun i => p i).card := by
  rw [← List.toFinset_finRange, (List.nodup_finRange n).card_eq_countP]
  simp

/-- R20, R60: a bit of `apply` as a parity. -/
theorem getLsbD_apply (m : GF2Matrix) (v : Word) (j : Nat) :
    (apply m v).getLsbD j =
      decide ((Finset.univ.filter fun i : Fin 64 => v.getLsbD i.val && m[i].getLsbD j).card % 2 = 1) := by
  rw [apply_eq_foldl_finRange, getLsbD_foldl_xor, countP_finRange]
  simp

/-- Settles O18. -/
theorem applyIsTheMatrixVectorProduct : Obligations.ApplyIsTheMatrixVectorProduct := getLsbD_apply

end productOverGF2

section resetState

@[simp] theorem getElem_zeroMatrix (i : Nat) (h : i < 64) : zeroMatrix[i] = 0 := by
  simp [zeroMatrix]

/-- The zero matrix is the zero map: no row has a bit to count. -/
theorem apply_zeroMatrix (v : Word) : apply zeroMatrix v = 0 := by
  apply BitVec.eq_of_getLsbD_eq
  intro j _
  rw [getLsbD_apply]
  simp

theorem readReg_resetBlock (r : WindowReg) (s : State) : readReg r (resetBlock s) = 0 := by
  cases r with
  | row sl i => simp [readReg]
  | cmd | status | poly | opa | opb | len | res => rfl

/-- Settles O8: the reset state is a block that has been reset. -/
theorem resetClearsEveryRegister : Obligations.ResetClearsEveryRegister :=
  ⟨fun r => readReg_resetBlock r State.reset,
    fun s => ⟨resetBlock s, rfl, fun r => readReg_resetBlock r s, fun v => ⟨apply_zeroMatrix v, apply_zeroMatrix v⟩⟩⟩

/-- Settles O7: with no event at the port the step only clears the response. -/
theorem waitingBlockKeepsItsState : Obligations.WaitingBlockKeepsItsState := by
  intro s hp
  simp only [step, portStep, hp]

end resetState

section whatCommandsRead

/-- Settles O50: every command completes (`exec_eq_next`), and `exec_frame` says what it leaves. -/
theorem commandsLeaveTheOperands : Obligations.CommandsLeaveTheOperands := by
  intro i s
  obtain ⟨t, h⟩ := exec_eq_next i s
  exact ⟨t, h, exec_frame h⟩

/-- The state with other contents in STATUS, RES and CMD. -/
def State.withUnread (s : State) (x y z : Word) : State := { s with status := x, res := y, cmd := z }

section withUnread
variable (s : State) (x y z : Word)

@[simp] theorem withUnread_poly : (s.withUnread x y z).poly = s.poly := rfl
@[simp] theorem withUnread_opa : (s.withUnread x y z).opa = s.opa := rfl
@[simp] theorem withUnread_opb : (s.withUnread x y z).opb = s.opb := rfl
@[simp] theorem withUnread_len : (s.withUnread x y z).len = s.len := rfl
@[simp] theorem slot_withUnread (sl : Slot) : slot sl (s.withUnread x y z) = slot sl s := by cases sl <;> rfl
@[simp] theorem adler1Operand_withUnread : adler1Operand (s.withUnread x y z) = adler1Operand s := rfl
@[simp] theorem adler2Operand_withUnread : adler2Operand (s.withUnread x y z) = adler2Operand s := rfl

@[simp] theorem writeSlot_withUnread (sl : Slot) (m : GF2Matrix) :
    writeSlot sl m (s.withUnread x y z) = (writeSlot sl m s).withUnread x y z := by
  cases sl <;> rfl

/-- A success that writes RES writes over the contents that differ, but for CMD. -/
@[simp] theorem succeed_writeRes_withUnread (u : Bool) (v : Word) :
    succeed u (writeRes v (s.withUnread x y z)) = { succeed u (writeRes v s) with cmd := z } := rfl

/-- A success that does not write RES leaves it, and CMD, as they differ. -/
@[simp] theorem succeed_withUnread (u : Bool) :
    succeed u (s.withUnread x y z) = { succeed u s with res := y, cmd := z } := rfl

@[simp] theorem raise_withUnread (e : CommandError) :
    raise e (s.withUnread x y z) = { raise e s with res := y, cmd := z } := rfl

end withUnread

/-- A command does not read STATUS, RES or CMD: it writes RES with the same value or leaves it as it stands, and leaves
CMD as it stands. -/
theorem exec_withUnread {i : Instr} {s t : State} (x y z : Word) (h : exec i s = .next t) :
    ∃ t', exec i (s.withUnread x y z) = .next t' ∧
      (t' = { t with cmd := z } ∨ (t.res = s.res ∧ t' = { t with res := y, cmd := z })) := by
  rcases exec_cases h with
    ⟨rfl | rfl, hl, rfl⟩ | ⟨sl, rfl, rfl⟩ | ⟨sl, rfl, rfl⟩ | ⟨sl, rfl, rfl⟩ | ⟨rfl, rfl⟩ | ⟨rfl, hl, rfl⟩ | ⟨rfl, hl, rfl⟩
  · exact ⟨_, exec_crc64Combine_negative hl, .inr ⟨rfl, raise_withUnread s x y z _⟩⟩
  · exact ⟨_, exec_adler32Combine_negative hl, .inr ⟨rfl, raise_withUnread s x y z _⟩⟩
  · exact ⟨_, exec_gf2Apply sl _, .inl (by simp)⟩
  · exact ⟨_, exec_gf2Square sl _, .inr ⟨by simp, by simp⟩⟩
  · exact ⟨_, exec_zopBase sl _, .inr ⟨by simp, by simp⟩⟩
  · exact ⟨_, exec_zopSeed _, .inr ⟨by simp, by simp⟩⟩
  · exact ⟨_, exec_crc64Combine (s := s.withUnread x y z) hl, .inl (by simp)⟩
  · exact ⟨_, exec_adler32Combine (s := s.withUnread x y z) hl, .inl (by simp)⟩

/-- Settles O51: `exec_withUnread` says what may differ, `exec_status` what STATUS holds. -/
theorem commandsIgnoreStatusResAndCmd : Obligations.CommandsIgnoreStatusResAndCmd := by
  intro i s x y z
  obtain ⟨t, h⟩ := exec_eq_next i s
  obtain ⟨t', h', hdiff⟩ := exec_withUnread x y z h
  have hstatus : t.status ∈ [(0x01 : Word), 0x05, 0x13] := by
    rcases exec_status h with ⟨hst, _⟩ | ⟨hst, _⟩ | ⟨hst | hst, _⟩ <;> simp [hst]
  refine ⟨t, t', h, h', hstatus, ?_⟩
  rcases hdiff with rfl | ⟨hres, rfl⟩
  · exact ⟨rfl, .inl rfl⟩
  · exact ⟨rfl, .inr ⟨hres, rfl⟩⟩

/-- Settles O57: the equations of the three commands name the operands and nothing else that they read. -/
theorem wholeCallCommandsIgnoreWhatCameBefore : Obligations.WholeCallCommandsIgnoreWhatCameBefore := by
  intro s s' hpoly hopa hopb hlen
  refine ⟨⟨_, _, exec_zopSeed s, exec_zopSeed s', ?_⟩, ?_, ?_⟩
  · simp [hpoly]
  · cases hl : s.len.getLsbD 63 with
    | true => exact ⟨_, _, exec_crc64Combine_negative hl, exec_crc64Combine_negative (hlen ▸ hl), rfl, nofun⟩
    | false =>
      refine ⟨_, _, exec_crc64Combine hl, exec_crc64Combine (hlen ▸ hl), ?_⟩
      simp [hpoly, hopa, hopb, hlen]
  · cases hl : s.len.getLsbD 63 with
    | true => exact ⟨_, _, exec_adler32Combine_negative hl, exec_adler32Combine_negative (hlen ▸ hl), rfl, nofun⟩
    | false =>
      refine ⟨_, _, exec_adler32Combine hl, exec_adler32Combine (hlen ▸ hl), ?_⟩
      simp [adler1Operand, adler2Operand, hopa, hopb, hlen]

end whatCommandsRead

end Sys2Proof.Machine

/-!
PROOFS. The memory family (20_memory.md): which transactions are good, what each is answered and what it leaves alone,
the byte view of the window, and the repetition of a command.
-/

namespace Sys2Proof

section checks

/-- Check 1 of R38 on the number of the offset. -/
theorem aligned_eq_false_iff (off : Offset) : aligned off = false ↔ off.toNat % 8 ≠ 0 := by
  simp [aligned, ← BitVec.toNat_inj, BitVec.extractLsb'_toNat]

/-- Check 2 of R38 on the number of the offset. -/
theorem mapped_eq_false_iff (off : Offset) :
    mapped off = false ↔
      (0x038 ≤ off.toNat ∧ off.toNat ≤ 0x1FF) ∨ (0x600 ≤ off.toNat ∧ off.toNat ≤ 0xFFF) := by
  simp only [mapped, BitVec.le_def, Bool.not_eq_false', Bool.or_eq_true, Bool.and_eq_true, decide_eq_true_eq]
  exact Iff.rfl

theorem fullStrobe_eq_false_iff (strb : Strobe) : fullStrobe strb = false ↔ strb ≠ 0xFF := by
  simp [fullStrobe]

/-- Check 4 of R38 by the names of the registers. -/
theorem writableOffset_eq_false_iff (off : Offset) :
    writableOffset off = false ↔ off = Machine.offsetOf .status ∨ off = Machine.offsetOf .res := by
  simp only [writableOffset, Machine.offsetOf, Bool.not_eq_false', Bool.or_eq_true, beq_iff_eq]

end checks

end Sys2Proof

namespace Sys2Proof.Machine

section goodTransactions

theorem offsetOf_injective : Function.Injective offsetOf := by
  intro q r h
  have hreg : some q = some r := by rw [← regAt_offsetOf q, ← regAt_offsetOf r, h]
  exact Option.some.inj hreg

/-- The bad reads are those where no register is found (R34, R38). -/
theorem busRead_wellFormed_eq_false_iff (off : Offset) :
    (Transaction.busRead off).wellFormed = false ↔ regAt off = none := by
  rw [regAt_eq_none_iff, ← aligned_eq_false_iff, ← mapped_eq_false_iff, Transaction.wellFormed, Bool.and_eq_false_iff]

/-- The bad writes are the bad reads' offsets, the narrow writes and the read-only registers (R38). -/
theorem busWrite_wellFormed_eq_false_iff (off : Offset) (data : Word) (strb : Strobe) :
    (Transaction.busWrite off data strb).wellFormed = false ↔
      regAt off = none ∨ strb ≠ 0xFF ∨ off = offsetOf .status ∨ off = offsetOf .res := by
  rw [← busRead_wellFormed_eq_false_iff, ← fullStrobe_eq_false_iff, ← writableOffset_eq_false_iff]
  simp only [Transaction.wellFormed, Bool.and_eq_false_iff, or_assoc]

/-- A full write of a register is good unless the register is read-only. -/
theorem busWrite_offsetOf_wellFormed {r : WindowReg} (data : Word) (hstatus : r ≠ .status) (hres : r ≠ .res) :
    (Transaction.busWrite (offsetOf r) data 0xFF).wellFormed = true := by
  rw [← Bool.not_eq_false, busWrite_wellFormed_eq_false_iff]
  simp [offsetOf_injective.eq_iff, hstatus, hres]

/-- A register that takes a store is not read-only. -/
theorem storeReg_not_readOnly {r : WindowReg} {v : Word} {s t : State} (h : storeReg r v s = some t) :
    r ≠ .status ∧ r ≠ .res := by
  have hsome : ¬ storeReg r v s = none := by simp [h]
  rwa [storeReg_eq_none_iff, not_or] at hsome

/-- OKAY for a good transaction, ERROR for a bad one. -/
def respTo (t : Transaction) : Resp := if t.wellFormed then .okay else .error

theorem respTo_of_good {t : Transaction} (h : t.wellFormed = true) : respTo t = .okay := if_pos h

theorem respTo_of_bad {t : Transaction} (h : t.wellFormed = false) : respTo t = .error := by simp [respTo, h]

theorem respTo_eq_error_iff (t : Transaction) : respTo t = .error ↔ t.wellFormed = false := by
  cases h : t.wellFormed <;> simp [respTo, h]

end goodTransactions

section answers

/-- A read is answered as R35 and R38 say, and moves nothing but the counter of the ERROR reads. -/
theorem busRead_answers (off : Offset) (s : State) : ∃ v draws,
    busRead off s = answer (.read (respTo (.busRead off)) v) { s with draws := draws } := by
  cases h : regAt off with
  | none =>
    rw [respTo_of_bad ((busRead_wellFormed_eq_false_iff off).2 h)]
    exact ⟨Config.errorReadData s.draws, s.draws + 1, by simp only [busRead, h]⟩
  | some r =>
    have hgood : (Transaction.busRead off).wellFormed = true := by
      rw [← Bool.not_eq_false, busRead_wellFormed_eq_false_iff, h]; exact Option.some_ne_none r
    rw [respTo_of_good hgood]
    exact ⟨readReg r s, s.draws, by simp only [busRead, h]⟩

/-- A write is answered as R36 to R38 say, and a bad one leaves the state. -/
theorem busWrite_answers (off : Offset) (data : Word) (strb : Strobe) (s : State) : ∃ u,
    busWrite off data strb s = .next (answer (.write (respTo (.busWrite off data strb))) u) ∧
    ((Transaction.busWrite off data strb).wellFormed = false → u = s) := by
  rcases busWrite_cases off data strb s with ⟨h, hbad⟩ | ⟨rfl, rfl, h⟩ | ⟨r, t, rfl, rfl, hst, _, h⟩
  · have hbad' : (Transaction.busWrite off data strb).wellFormed = false :=
      (busWrite_wellFormed_eq_false_iff off data strb).2 (or_left_comm.1 hbad)
    exact ⟨s, by rw [h, respTo_of_bad hbad'], fun _ => rfl⟩
  · obtain ⟨u, hu⟩ := runCommand_eq_next data s
    have hgood := busWrite_offsetOf_wellFormed (r := .cmd) data nofun nofun
    exact ⟨u, by rw [h, hu, respTo_of_good hgood, onNext], fun hbad => Bool.noConfusion (hgood.symm.trans hbad)⟩
  · obtain ⟨hstatus, hres⟩ := storeReg_not_readOnly hst
    have hgood := busWrite_offsetOf_wellFormed data hstatus hres
    exact ⟨t, by rw [h, respTo_of_good hgood], fun hbad => Bool.noConfusion (hgood.symm.trans hbad)⟩

/-- Settles O10: each offset of R34 is that of a register, and `busRead_offsetOf` reads it. -/
theorem goodReadReturnsTheRegister : Obligations.GoodReadReturnsTheRegister := by
  intro s
  have gives (r : WindowReg) : transact (.busRead (offsetOf r)) s = .next (answer (.read .okay (readReg r s)) s) :=
    congrArg _ (busRead_offsetOf r s)
  exact ⟨gives .cmd, gives .status, gives .poly, gives .opa, gives .opb, gives .len, gives .res,
    fun i => ⟨gives (.row .m0 i), gives (.row .m1 i)⟩⟩

/-- A full write of a slot row: the slot as it was but for that row (R36). -/
theorem transact_busWrite_row (sl : Slot) (i : Fin 64) (data : Word) (s : State) : ∃ m : GF2Matrix,
    transact (.busWrite (offsetOf (.row sl i)) data 0xFF) s = .next (answer (.write .okay) (writeSlot sl m s)) ∧
    ∀ j : Fin 64, m[j] = if j = i then data else (slot sl s)[j] :=
  ⟨(slot sl s).set i data, busWrite_offsetOf (r := .row sl i) nofun rfl,
    fun j => by simp [Vector.getElem_set, Fin.ext_iff, eq_comm]⟩

/-- Settles O11: `busWrite_offsetOf` at the four operand registers, `transact_busWrite_row` at the rows. -/
theorem goodWriteSetsOneRegister : Obligations.GoodWriteSetsOneRegister := by
  intro s data
  exact ⟨busWrite_offsetOf (r := .poly) nofun rfl, busWrite_offsetOf (r := .opa) nofun rfl,
    busWrite_offsetOf (r := .opb) nofun rfl, busWrite_offsetOf (r := .len) nofun rfl,
    fun i => ⟨transact_busWrite_row .m0 i data s, transact_busWrite_row .m1 i data s⟩⟩

/-- Settles O12: the cases of R38 are those of `wellFormed`, and `busRead_answers` and `busWrite_answers` say what a bad
transaction does. -/
theorem badAccessGetsErrorAndChangesNothing : Obligations.BadAccessGetsErrorAndChangesNothing := by
  intro s off
  refine ⟨fun hbad => ?_, fun data strb hbad => ?_⟩
  · have hread := (busRead_wellFormed_eq_false_iff off).2 ((regAt_eq_none_iff off).2 hbad)
    obtain ⟨v, draws, h⟩ := busRead_answers off s
    rw [respTo_of_bad hread] at h
    exact ⟨v, draws, congrArg _ h⟩
  · have hwrite : (Transaction.busWrite off data strb).wellFormed = false := by
      rw [busWrite_wellFormed_eq_false_iff, regAt_eq_none_iff]
      simpa only [← BitVec.toNat_inj, offsetOf_toNat] using hbad
    obtain ⟨u, h, hu⟩ := busWrite_answers off data strb s
    rw [respTo_of_bad hwrite, hu hwrite] at h
    exact h

theorem busErrorSeen_answer_read (resp : Resp) (v : Word) (s : State) :
    busErrorSeen (answer (.read resp v) s) = true ↔ resp = .error := by
  cases resp <;> simp [busErrorSeen]

theorem busErrorSeen_answer_write (resp : Resp) (s : State) :
    busErrorSeen (answer (.write resp) s) = true ↔ resp = .error := by
  cases resp <;> simp [busErrorSeen]

/-- Settles O13: every transaction is answered `respTo` it. -/
theorem errorResponseIffIllFormed : Obligations.ErrorResponseIffIllFormed := by
  intro s u t h
  cases t with
  | busRead off =>
    obtain ⟨v, draws, hread⟩ := busRead_answers off s
    obtain rfl : busRead off s = u := Host.Outcome.next.inj h
    rw [hread, busErrorSeen_answer_read, respTo_eq_error_iff]
  | busWrite off data strb =>
    obtain ⟨t, hwrite, _⟩ := busWrite_answers off data strb s
    obtain rfl : answer _ t = u := Host.Outcome.next.inj (hwrite.symm.trans h)
    rw [busErrorSeen_answer_write, respTo_eq_error_iff]

end answers

section portEvents

/-- Settles O6. -/
theorem stepTakesTheOldestEvent : Obligations.StepTakesTheOldestEvent := by
  intro s e rest hp
  have hstep : step s = portEvent e { s with pending := rest } := by simp only [step, portStep, hp]
  refine ⟨hstep, fun t ht => ?_⟩
  rw [hstep, ht, portEvent]

theorem nextEvent_of_pending {s : State} {e : HostEvent} {rest : List HostEvent} (hp : s.pending = e :: rest) :
    nextEvent s = some e := by
  rw [nextEvent, hp, List.head?_cons]

/-- What stands at the port after a step (R32, R33, R120): nothing unless a transaction was answered, else an answer of
its kind. -/
theorem step_response {s t : State} (h : step s = .next t) :
    ((∀ x, nextEvent s ≠ some (.request x)) ∧ t.response = none) ∨
    (∃ off resp v, nextEvent s = some (.request (.busRead off)) ∧ t.response = some (.read resp v)) ∨
    ∃ off data strb resp, nextEvent s = some (.request (.busWrite off data strb)) ∧
      t.response = some (.write resp) := by
  rcases step_cases h with ⟨hp, rfl⟩ | ⟨e, rest, hp, he, rfl⟩ | ⟨off, rest, hp, rfl⟩ | ⟨off, data, strb, rest, hp, rfl⟩ |
    ⟨r, data, rest, u, hp, _, _, rfl⟩ | ⟨w, rest, u, hp, _, rfl⟩
  · exact .inl ⟨by simp [nextEvent, hp], rfl⟩
  · refine .inl ⟨fun x hx => ?_, rfl⟩
    obtain rfl : e = .request x := Option.some.inj ((nextEvent_of_pending hp).symm.trans hx)
    cases he
  · obtain ⟨v, draws, hread⟩ := busRead_answers off { s with pending := rest }
    exact .inr (.inl ⟨off, _, v, nextEvent_of_pending hp, by rw [hread, answer_response]⟩)
  all_goals exact .inr (.inr ⟨_, _, _, _, nextEvent_of_pending hp, rfl⟩)

/-- Settles O15: the three outcomes of `step_response` exclude each other. -/
theorem responseAnswersTheRequest : Obligations.ResponseAnswersTheRequest := by
  intro s t h
  rcases step_response h with ⟨hevent, hresp⟩ | ⟨off, resp, v, hevent, hresp⟩ | ⟨off, data, strb, resp, hevent, hresp⟩ <;>
    simp [hevent, hresp]

end portEvents

section windowBytes

/-- The offsets of R34 are multiples of 8: a misaligned offset is no register's. -/
theorem offsetOf_toNat_mod_eight (r : WindowReg) : (offsetOf r).toNat % 8 = 0 := by
  by_contra hmis
  have hnone := (regAt_eq_none_iff (offsetOf r)).2 (.inl hmis)
  rw [regAt_offsetOf] at hnone
  cases hnone

/-- R39: the byte at BASE + off + b is lane b of the register at off. -/
theorem windowByte_offsetOf (s : State) (r : WindowReg) {b : Nat} (hb : b < 8) :
    windowByte s (Config.base + (offsetOf r).toNat + b) = some (byteLane (readReg r s) b) := by
  have hoff := offsetOf_toNat_mod_eight r
  have hlt : (offsetOf r).toNat < 4096 := (offsetOf r).isLt
  have hrange : Config.base ≤ Config.base + (offsetOf r).toNat + b ∧
      Config.base + (offsetOf r).toNat + b < Config.base + Config.windowBytes := by
    simp only [Config.windowBytes]; omega
  have hsub : Config.base + (offsetOf r).toNat + b - Config.base = (offsetOf r).toNat + b := by omega
  have hlane : ((offsetOf r).toNat + b) % 8 = b := by omega
  simp only [windowByte, hrange, and_self, if_true, hsub, hlane, Nat.add_sub_cancel, BitVec.ofNat_toNat,
    BitVec.setWidth_eq, regAt_offsetOf]

/-- Settles O16. -/
theorem windowBytesAreLittleEndian : Obligations.WindowBytesAreLittleEndian := by
  intro s r b hb
  refine ⟨_, windowByte_offsetOf s r hb, fun j hj => ?_⟩
  simp [byteLane, hj]

end windowBytes

section repetition
variable (u : Bool) (v : Word) (s : State)

theorem succeed_writeRes_twice :
    succeed u (writeRes v (succeed u (writeRes v s))) = succeed u (writeRes v s) := rfl

theorem succeed_writeSlot_twice (sl : Slot) (m : GF2Matrix) :
    succeed u (writeSlot sl m (succeed u (writeSlot sl m s))) = succeed u (writeSlot sl m s) := by
  cases sl <;> rfl

theorem succeed_writeSlots_twice (a b : GF2Matrix) :
    succeed u (writeSlot .m1 b (writeSlot .m0 a (succeed u (writeSlot .m1 b (writeSlot .m0 a s))))) =
      succeed u (writeSlot .m1 b (writeSlot .m0 a s)) := rfl

theorem succeed_writeRes_writeSlots_twice (a b : GF2Matrix) :
    succeed u (writeRes v (writeSlot .m1 b (writeSlot .m0 a
        (succeed u (writeRes v (writeSlot .m1 b (writeSlot .m0 a s))))))) =
      succeed u (writeRes v (writeSlot .m1 b (writeSlot .m0 a s))) := rfl

/-- `GF2.SQUARE S` leaves the slot it reads (R66). -/
theorem slot_writeSlot_otherSlot (sl : Slot) (m : GF2Matrix) : slot sl (writeSlot (otherSlot sl) m s) = slot sl s := by
  cases sl <;> rfl

theorem adler1Operand_succeed_writeRes : adler1Operand (succeed u (writeRes v s)) = adler1Operand s := rfl

theorem adler2Operand_succeed_writeRes : adler2Operand (succeed u (writeRes v s)) = adler2Operand s := rfl

end repetition

/-- R23, R45: no command writes what it reads, so the second run writes what the first wrote. -/
theorem exec_exec {i : Instr} {s t : State} (h : exec i s = .next t) : exec i t = .next t := by
  rcases exec_cases h with
    ⟨rfl | rfl, hl, rfl⟩ | ⟨sl, rfl, rfl⟩ | ⟨sl, rfl, rfl⟩ | ⟨sl, rfl, rfl⟩ | ⟨rfl, rfl⟩ | ⟨rfl, hl, rfl⟩ | ⟨rfl, hl, rfl⟩
  · exact exec_crc64Combine_negative hl
  · exact exec_adler32Combine_negative hl
  · rw [exec_gf2Apply, slot_succeed, slot_writeRes, succeed_opa, writeRes_opa, succeed_writeRes_twice]
  · rw [exec_gf2Square, slot_succeed, slot_writeSlot_otherSlot, succeed_writeSlot_twice]
  · rw [exec_zopBase, succeed_poly, writeSlot_poly, succeed_writeSlot_twice]
  · rw [exec_zopSeed, succeed_poly, writeSlot_poly, writeSlot_poly, succeed_writeSlots_twice]
  · rw [exec_crc64Combine (by simpa using hl)]
    simp only [succeed_poly, writeRes_poly, writeSlot_poly, succeed_opa, writeRes_opa, writeSlot_opa, succeed_opb,
      writeRes_opb, writeSlot_opb, succeed_len, writeRes_len, writeSlot_len, succeed_writeRes_writeSlots_twice]
  · rw [exec_adler32Combine (by simpa using hl), adler1Operand_succeed_writeRes, adler2Operand_succeed_writeRes,
      succeed_len, writeRes_len, succeed_writeRes_twice]

/-- Settles O53: every command completes (`exec_eq_next`), and `exec_exec` runs it again. -/
theorem repeatingACommandChangesNothing : Obligations.RepeatingACommandChangesNothing := by
  intro i s
  obtain ⟨t, h⟩ := exec_eq_next i s
  exact ⟨t, h, exec_exec h⟩

end Sys2Proof.Machine

/-!
PROOFS. The encoding family (30_encoding.md): the fields of a command word and of the nine legal ones, what decoding
gives for each, what a CMD write then does, and the transactions of a script.
-/

namespace Sys2Proof

section fieldsOfAWord
variable (s : Bool) (opc : BitVec 8)

/-- A word from its fields, bit by bit (R50). -/
theorem getLsbD_wordOfFields (j : Nat) :
    (wordOfFields s opc).getLsbD j = if j < 8 then opc.getLsbD j else decide (j = 8) && s := by
  have h : (wordOfFields s opc).getLsbD j =
      if j < 8 then opc.getLsbD j else ((0 : BitVec 55) ++ BitVec.ofBool s).getLsbD (j - 8) := BitVec.getLsbD_append
  rw [h, BitVec.getLsbD_append]
  split_ifs with hlow hbit
  · rfl
  · obtain rfl : j = 8 := by omega
    simp
  · have : j ≠ 8 := by omega
    simp [this]

@[simp] theorem zeroField_wordOfFields : zeroField (wordOfFields s opc) = 0 := by
  ext j hj
  have habove : ¬ 9 + j < 8 ∧ 9 + j ≠ 8 := by omega
  simp [zeroField, getLsbD_wordOfFields, habove]

@[simp] theorem slotBit_wordOfFields : slotBit (wordOfFields s opc) = s :=
  (getLsbD_wordOfFields s opc 8).trans (by simp)

@[simp] theorem opcField_wordOfFields : opcField (wordOfFields s opc) = opc := by
  ext j hj
  simp [opcField, getLsbD_wordOfFields, hj]

end fieldsOfAWord

section agreement

/-- Settles O1: `decode_encode` one way, `eq_encode_of_decode` the other. -/
theorem decodeReadsExactlyTheEncodedWord : Obligations.DecodeReadsExactlyTheEncodedWord := by
  intro w i
  exact ⟨eq_encode_of_decode, fun h => h ▸ decode_encode i⟩

/-- Settles O3: each of the nine words is `encode` of its command. -/
theorem nineLegalWordsDecode : Obligations.NineLegalWordsDecode :=
  ⟨decode_encode (.gf2Apply .m0), decode_encode (.gf2Apply .m1), decode_encode (.gf2Square .m0),
    decode_encode (.gf2Square .m1), decode_encode (.zopBase .m0), decode_encode (.zopBase .m1),
    decode_encode .zopSeed, decode_encode .crc64Combine, decode_encode .adler32Combine⟩

end agreement

section legalFields

/-- The fields of the nine words of R52: ZERO is 0, and OPC is that of a format S command, or that of a format N command
with S = 0. -/
theorem exists_eq_encode_iff (w : Word) : (∃ i, w = encode i) ↔
    zeroField w = 0 ∧ (opcField w ∈ [1, 2, 3] ∨ opcField w ∈ [4, 5, 6] ∧ slotBit w = false) := by
  constructor
  · rintro ⟨i, rfl⟩
    cases i <;> simp [encode]
  · rintro ⟨hzero, hopc⟩
    rw [eq_wordOfFields hzero]
    simp only [List.mem_cons, List.not_mem_nil, or_false] at hopc
    rcases hopc with ho | ⟨ho, hs⟩
    · rw [← bitOfSlot_slotOfBit (slotBit w)]
      rcases ho with ho | ho | ho <;> rw [ho]
      · exact ⟨.gf2Apply _, rfl⟩
      · exact ⟨.gf2Square _, rfl⟩
      · exact ⟨.zopBase _, rfl⟩
    · rw [hs]
      rcases ho with ho | ho | ho <;> rw [ho]
      · exact ⟨.zopSeed, rfl⟩
      · exact ⟨.crc64Combine, rfl⟩
      · exact ⟨.adler32Combine, rfl⟩

/-- Decoding is total (R51): what is no command's word is illegal. -/
theorem exists_decode_illegal_iff (w : Word) : (∃ why, decode w = .illegal why) ↔ ¬ ∃ i, w = encode i := by
  cases h : decode w with
  | command i => simp [eq_encode_of_decode h]
  | illegal why => simp [← legalWord_iff_exists_encode, legalWord_eq_false_of_decode_illegal h]

theorem mem_formatS_iff (opc : BitVec 8) : opc ∈ [1, 2, 3] ↔ 1 ≤ opc.toNat ∧ opc.toNat ≤ 3 := by
  simp [← BitVec.toNat_inj]; omega

theorem mem_formatN_iff (opc : BitVec 8) : opc ∈ [4, 5, 6] ↔ 4 ≤ opc.toNat ∧ opc.toNat ≤ 6 := by
  simp [← BitVec.toNat_inj]; omega

/-- The words of the four conditions of R55 are those that are no command's. -/
theorem exists_eq_encode_iff_not_illegal (w : Word) : (∃ i, w = encode i) ↔
    ¬ (zeroField w ≠ 0 ∨ opcField w = 0x00 ∨ 0x07 ≤ (opcField w).toNat ∨
      (opcField w ∈ [(0x04 : BitVec 8), 0x05, 0x06] ∧ slotBit w = true)) := by
  have hOpcZero : opcField w = 0x00 ↔ (opcField w).toNat = 0 := BitVec.toNat_inj.symm
  rw [exists_eq_encode_iff, mem_formatS_iff, mem_formatN_iff, hOpcZero, not_or, not_not]
  refine and_congr_right fun _ => ?_
  cases slotBit w
  · simp only [and_true, Bool.false_eq_true, and_false, or_false]; omega
  · simp only [and_true, Bool.true_eq_false, and_false, or_false]; omega

/-- The fields of a word, ZERO and OPC as the numbers of R51's pseudocode, give the word back and so its command. -/
theorem decode_eq_command_of_toNat {w : Word} {i : Instr} {b : Bool} {k : Nat}
    (hi : encode i = wordOfFields b (BitVec.ofNat 8 k)) (hzero : w.toNat / 512 = 0) (hopc : w.toNat % 256 = k)
    (hslot : slotBit w = b) : decode w = .command i := by
  have hk : k < 256 := by omega
  have hword := eq_wordOfFields ((zeroField_eq_zero_iff w).2 hzero)
  rw [hslot, (opcField_eq_iff w k hk).2 hopc, ← hi] at hword
  rw [hword, decode_encode]

theorem slotBit_eq_bitOfSlot (w : Word) :
    slotBit w = bitOfSlot (if w.toNat / 256 % 2 = 0 then .m0 else .m1) := by
  split
  · next h => rw [(slotBit_eq_false_iff w).2 h]; rfl
  · next h => rw [(slotBit_eq_true_iff w).2 (by omega)]; rfl

/-- The fields of the nine words as the numbers of R51's pseudocode. -/
theorem exists_eq_encode_iff_toNat (w : Word) : (∃ i, w = encode i) ↔
    w.toNat / 512 = 0 ∧
      (w.toNat % 256 ∈ [1, 2, 3] ∨ w.toNat % 256 ∈ [4, 5, 6] ∧ w.toNat / 256 % 2 = 0) := by
  rw [exists_eq_encode_iff, zeroField_eq_zero_iff, slotBit_eq_false_iff]
  have hopc : ∀ k < 256, opcField w = BitVec.ofNat 8 k ↔ w.toNat % 256 = k := opcField_eq_iff w
  simp only [List.mem_cons, List.not_mem_nil, or_false, ← hopc 1 (by decide), ← hopc 2 (by decide),
    ← hopc 3 (by decide), ← hopc 4 (by decide), ← hopc 5 (by decide), ← hopc 6 (by decide)]
  exact Iff.rfl

/-- Settles O2: with Z = 0 the word is that of its OPC and S, so `decode_encode` reads it; what
`exists_eq_encode_iff_toNat` leaves out is illegal. -/
theorem decodeFollowsOpcSlotAndZero : Obligations.DecodeFollowsOpcSlotAndZero := by
  intro w opc S Z sl
  have hslot : slotBit w = bitOfSlot sl := slotBit_eq_bitOfSlot w
  have formatS {i : Instr} {k : Nat} (hi : encode i = wordOfFields (bitOfSlot sl) (BitVec.ofNat 8 k)) (hZ : Z = 0)
      (hopc : opc = k) : decode w = .command i := decode_eq_command_of_toNat hi hZ hopc hslot
  have formatN {i : Instr} {k : Nat} (hi : encode i = wordOfFields false (BitVec.ofNat 8 k)) (hZ : Z = 0)
      (hopc : opc = k) (hS : S = 0) : decode w = .command i :=
    decode_eq_command_of_toNat hi hZ hopc ((slotBit_eq_false_iff w).2 hS)
  have hapart : ∀ opc ∈ [1, 2, 3], opc ∉ [4, 5, 6] := by decide
  have hillegal := (exists_decode_illegal_iff w).trans (exists_eq_encode_iff_toNat w).not
  refine ⟨fun hZ => hillegal.2 fun ⟨hzero, _⟩ => hZ hzero, formatS rfl, formatS rfl, formatS rfl, formatN rfl,
    formatN rfl, formatN rfl, fun _ hopc hS => hillegal.2 ?_, fun _ hopc => hillegal.2 ?_⟩
  · rintro ⟨_, h | ⟨_, h⟩⟩
    · exact hapart opc h hopc
    · omega
  · rintro ⟨_, h | ⟨h, _⟩⟩
    · exact hopc (List.mem_append_left [4, 5, 6] h)
    · exact hopc (List.mem_append_right [1, 2, 3] h)

end legalFields

end Sys2Proof

namespace Sys2Proof.Machine

section commandWrites

theorem runCommand_of_command {w : Word} {i : Instr} (h : decode w = .command i) (s : State) :
    runCommand w s = exec i { s with cmd := w } := by
  simp only [runCommand, h]

theorem runCommand_of_illegal {w : Word} {why : IllegalReason} (h : decode w = .illegal why) (s : State) :
    runCommand w s = .next (raise .illegalCommand { s with cmd := w }) := by
  simp only [runCommand, h]

/-- The write of an illegal word: IllegalCommand in STATUS, and the answer OKAY (R37, R103). -/
theorem busWrite_cmd_of_illegal {w : Word} {why : IllegalReason} (h : decode w = .illegal why) (s : State) :
    busWrite (offsetOf .cmd) w 0xFF s =
      .next { s with cmd := w, status := 0x23, response := some (.write .okay) } := by
  rw [busWrite_cmd, runCommand_of_illegal h, onNext, raise, errorStatus_illegalCommand, answer]

/-- Settles O4: R55's conditions are met by the words that are no command's, and those decode to an illegal word. -/
theorem illegalWordSetsCmdAndStatusOnly : Obligations.IllegalWordSetsCmdAndStatusOnly := by
  refine ⟨fun w => ?_, by decide, rfl⟩
  intro illegal
  have hlegal : (∃ i, w = encode i) ↔ ¬ illegal := exists_eq_encode_iff_not_illegal w
  refine ⟨?_, fun hw s => ?_⟩
  · rw [← hlegal, ← legalWord_iff_exists_encode, legalWord, List.contains_iff_mem]
  · obtain ⟨why, h⟩ := (exists_decode_illegal_iff w).2 fun hi => hlegal.1 hi hw
    exact busWrite_cmd_of_illegal h s

/-- Settles O5: the step is that of the CMD write, and the write runs the command the word decodes to. -/
theorem stepRunsTheDecodedCommand : Obligations.StepRunsTheDecodedCommand := by
  intro s w i rest hp h
  obtain ⟨_, hstep⟩ := stepTakesTheOldestEvent s _ rest hp
  calc step s = busWrite (offsetOf .cmd) w 0xFF { s with pending := rest } := hstep _ rfl
    _ = onNext (answer (.write .okay)) (exec i { s with cmd := w, pending := rest }) := by
      rw [busWrite_cmd, runCommand_of_command h]

end commandWrites

section scriptLines

theorem busRead_offsetOf_wellFormed (r : WindowReg) : (Transaction.busRead (offsetOf r)).wellFormed = true := by
  rw [← Bool.not_eq_false, busRead_wellFormed_eq_false_iff, regAt_offsetOf]
  exact Option.some_ne_none r

/-- `WR` names no read-only register (R58). -/
theorem wr_wellFormed_iff (r : WindowReg) (v : Word) :
    (ScriptLine.wr r v).wellFormed = true ↔ r ≠ .status ∧ r ≠ .res := by
  cases r <;> simp [ScriptLine.wellFormed]

/-- Settles O17: a line reads a register, or writes one that is not read-only. -/
theorem scriptLinesAreGoodTransactions : Obligations.ScriptLinesAreGoodTransactions := by
  refine ⟨fun l hl => ?_, fun i => rfl⟩
  cases l with
  | wr r v =>
    obtain ⟨hstatus, hres⟩ := (wr_wellFormed_iff r v).1 hl
    exact busWrite_offsetOf_wellFormed v hstatus hres
  | rd r => exact busRead_offsetOf_wellFormed r
  | command i => exact busWrite_offsetOf_wellFormed (r := .cmd) (encode i) nofun nofun

end scriptLines

end Sys2Proof.Machine

/-!
PROOFS. The matrix family (40_gf2_matrix.md): `apply` as a linear map that picks rows, `square` as the map applied
twice, and what the two matrix commands write.
-/

namespace Sys2Proof.Machine

section linearity

/-- The scan is linear in the vector, row by row. -/
theorem scanRows_xor (rows : List Word) (k : Nat) (a b : Word) :
    scanRows rows k (a ^^^ b) 0 = scanRows rows k a 0 ^^^ scanRows rows k b 0 := by
  induction rows generalizing k with
  | nil => simp
  | cons r rows ih =>
    have hpick : (if (a ^^^ b).getLsbD k then r else 0) =
        (if a.getLsbD k then r else 0) ^^^ (if b.getLsbD k then r else 0) := by
      rw [BitVec.getLsbD_xor]
      cases a.getLsbD k <;> cases b.getLsbD k <;> simp
    rw [scanRows_zero_cons, scanRows_zero_cons r rows k a, scanRows_zero_cons r rows k b, ih, hpick]
    ac_rfl

/-- R61 (e). -/
theorem apply_xor (m : GF2Matrix) (a b : Word) : apply m (a ^^^ b) = apply m a ^^^ apply m b :=
  scanRows_xor m.toList 0 a b

/-- R61 (c), a case of linearity: `0 = 0 ^ 0`. -/
theorem apply_zero (m : GF2Matrix) : apply m 0 = 0 := by
  have h := apply_xor m 0 0
  rwa [BitVec.xor_self, BitVec.xor_self] at h

/-- The bits of a unit vector. -/
theorem getLsbD_unit (i k : Fin 64) : ((1 : Word) <<< i.val).getLsbD k.val = decide (k = i) := by
  rw [Bool.eq_iff_iff]
  simp [Fin.ext_iff]
  omega

/-- R61 (d): the one row that the unit vector selects decides every parity. -/
theorem apply_unit (m : GF2Matrix) (i : Fin 64) : apply m ((1 : Word) <<< i.val) = m[i] := by
  apply BitVec.eq_of_getLsbD_eq
  intro j _
  have hsel : ∀ k : Fin 64, (((1 : Word) <<< i.val).getLsbD k.val && m[k].getLsbD j) =
      (decide (k = i) && m[i].getLsbD j) := by
    intro k
    rw [getLsbD_unit]
    by_cases hk : k = i
    · rw [hk]
    · simp [hk]
  rw [getLsbD_apply]
  simp only [hsel]
  cases m[i].getLsbD j <;> simp [Finset.filter_eq']

/-- Settles O19: (c), (d) and (e) of R61. -/
theorem applyIsLinear : Obligations.ApplyIsLinear :=
  fun m => ⟨apply_zero m, apply_unit m, apply_xor m⟩

end linearity

section selectedRows

/-- Only the rows that the vector selects take part. -/
theorem apply_congr {m m' : GF2Matrix} {v : Word} (h : ∀ i : Fin 64, v.getLsbD i.val = true → m[i] = m'[i]) :
    apply m v = apply m' v := by
  rw [apply_eq_foldl_finRange, apply_eq_foldl_finRange]
  refine List.foldl_ext _ _ _ fun acc i _ => ?_
  split
  · next hsel => rw [h i hsel]
  · rfl

/-- A set bit of `v` stands below the place from which `v` is all zero. -/
theorem lt_of_getLsbD_of_shiftRight_eq_zero {v : Word} {k i : Nat} (hv : v >>> k = 0) (hi : v.getLsbD i = true) :
    i < k := by
  by_contra hki
  have hbit : (v >>> k).getLsbD (i - k) = v.getLsbD i := by
    rw [BitVec.getLsbD_ushiftRight, Nat.add_sub_cancel' (Nat.le_of_not_lt hki)]
  rw [hv, hi] at hbit
  simp at hbit

/-- Settles O20: every row that `v` selects stands below k. -/
theorem earlyExitSkipsNothing : Obligations.EarlyExitSkipsNothing :=
  fun _ _ _ _ hv hrows => apply_congr fun i hi => hrows i (lt_of_getLsbD_of_shiftRight_eq_zero hv hi)

/-- R62: the vector of all ones selects every row. -/
theorem apply_allOnes (m : GF2Matrix) : apply m (BitVec.allOnes 64) = m.toList.foldl (· ^^^ ·) 0 := by
  have hrows : m.toList = (List.finRange 64).map fun i => m[i] := by
    apply List.ext_getElem <;> simp
  rw [apply_eq_foldl_finRange, hrows, List.foldl_map]
  simp only [BitVec.getLsbD_allOnes, Fin.is_lt, decide_true, if_true]

/-- R62: a slot of all-zero rows is the zero map. -/
theorem apply_eq_zero_of_rows {m : GF2Matrix} (h : ∀ i : Fin 64, m[i] = 0) (v : Word) : apply m v = 0 := by
  calc apply m v = apply zeroMatrix v := apply_congr fun i _ => (h i).trans (getElem_zeroMatrix i.val i.isLt).symm
    _ = 0 := apply_zeroMatrix v

end selectedRows

section squares

/-- A linear map goes through the scan to the rows. -/
theorem apply_scanRows (m : GF2Matrix) (rows : List Word) (k : Nat) (v : Word) :
    apply m (scanRows rows k v 0) = scanRows (rows.map (apply m)) k v 0 := by
  induction rows generalizing k with
  | nil => exact apply_zero m
  | cons r rows ih =>
    rw [List.map_cons, scanRows_zero_cons, scanRows_zero_cons, apply_xor, ih, apply_ite (apply m), apply_zero]

theorem toList_square (m : GF2Matrix) : (square m).toList = m.toList.map (apply m) := by
  apply List.ext_getElem <;> simp

/-- R65 (b): the square is the map applied twice. -/
theorem apply_square (m : GF2Matrix) (v : Word) : apply (square m) v = apply m (apply m v) := by
  rw [apply_eq_scanRows (square m), toList_square, ← apply_scanRows, ← apply_eq_scanRows]

/-- R65 (c), for the powers of any map: the square of the n-th is the 2n-th. -/
theorem apply_square_of_iterate {m : GF2Matrix} {f : Word → Word} {n : Nat} (h : ∀ v, apply m v = f^[n] v)
    (v : Word) : apply (square m) v = f^[2 * n] v := by
  rw [apply_square, h, h, ← Function.iterate_add_apply, two_mul]

theorem square_zeroMatrix : square zeroMatrix = zeroMatrix := by
  apply Vector.ext
  intro i hi
  rw [getElem_square, apply_zeroMatrix, getElem_zeroMatrix]

/-- The identity (R65 (d)): row i is `1 << i`. -/
def identityMatrix : GF2Matrix := Vector.ofFn fun i : Fin 64 => (1 : Word) <<< i.val

@[simp] theorem getElem_identityMatrix (i : Nat) (h : i < 64) : identityMatrix[i] = (1 : Word) <<< i := by
  simp [identityMatrix]

/-- R65 (d): the unit vectors, which are its rows, pick its rows. -/
theorem square_identityMatrix : square identityMatrix = identityMatrix := by
  apply Vector.ext
  intro i hi
  calc (square identityMatrix)[i] = apply identityMatrix ((1 : Word) <<< i) := by
        rw [getElem_square, getElem_identityMatrix]
    _ = identityMatrix[i] := apply_unit identityMatrix ⟨i, hi⟩

/-- Settles O21: (b), (c) and (d) of R65; `zeroMatrix` and `identityMatrix` name the two matrices of (d). -/
theorem squareComposes : Obligations.SquareComposes :=
  ⟨apply_square, fun _ _ _ h => apply_square_of_iterate h, square_zeroMatrix, square_identityMatrix⟩

end squares

section matrixCommands

/-- R62 as an effect on the registers: RES, STATUS, and nothing else. -/
theorem exec_gf2Apply_registers (sl : Slot) (s : State) :
    exec (.gf2Apply sl) s = .next { s with res := apply (slot sl s) s.opa, status := 0x01 } := by
  rw [exec_gf2Apply, succeed, successStatus_false, writeRes]

/-- Settles O22: one equation for both slots, and the lemmas on `apply` for the corner cases. -/
theorem gf2ApplyWritesRes : Obligations.Gf2ApplyWritesRes := by
  refine ⟨by decide, by decide, fun s => ⟨exec_gf2Apply_registers .m0 s, exec_gf2Apply_registers .m1 s,
    fun hopa => ?_, fun i hopa => ?_, fun hopa => ?_, fun hrows => apply_eq_zero_of_rows hrows _,
    fun hrows => apply_eq_zero_of_rows hrows _⟩⟩
  · rw [hopa]; exact ⟨apply_zero _, apply_zero _⟩
  · rw [hopa]; exact ⟨apply_unit _ i, apply_unit _ i⟩
  · rw [hopa]; exact ⟨apply_allOnes _, apply_allOnes _⟩

/-- R66, S = 0: M1, STATUS, and nothing else. -/
theorem exec_gf2Square_m0 (s : State) :
    exec (.gf2Square .m0) s = .next { s with m1 := square s.m0, status := 0x01 } := by
  simp only [exec_gf2Square, slot_m0, otherSlot, writeSlot, succeed, successStatus_false]

/-- R66, S = 1: M0, STATUS, and nothing else. -/
theorem exec_gf2Square_m1 (s : State) :
    exec (.gf2Square .m1) s = .next { s with m0 := square s.m1, status := 0x01 } := by
  simp only [exec_gf2Square, slot_m1, otherSlot, writeSlot, succeed, successStatus_false]

/-- Settles O23: the rows are those of `square`; the second command squares the square that the first left in M1. -/
theorem gf2SquareWritesTheOtherSlot : Obligations.Gf2SquareWritesTheOtherSlot := by
  refine ⟨by decide, by decide, fun s => ⟨
    ⟨square s.m0, exec_gf2Square_m0 s, fun i => getElem_square s.m0 i i.isLt⟩,
    ⟨square s.m1, exec_gf2Square_m1 s, fun i => getElem_square s.m1 i i.isLt⟩,
    _, _, exec_gf2Square_m0 s, exec_gf2Square_m1 _, fun v => ⟨?_, apply_square s.m0 v⟩⟩⟩
  calc apply (square (square s.m0)) v = apply (square s.m0) (apply (square s.m0) v) := apply_square _ v
    _ = apply s.m0 (apply s.m0 (apply s.m0 (apply s.m0 v))) := by rw [apply_square, apply_square]

end matrixCommands

end Sys2Proof.Machine

/-!
PROOFS. The zero operator family (41_zero_operator.md): the base operator as one clock of a zero bit, the rows of its
powers, and what the two builder commands write.
-/

namespace Sys2Proof.Machine

section baseOperator
variable (p : Word)

/-- Row i + 1 has the one bit i set (R70). -/
theorem getLsbD_buildBase_succ (i : Fin 63) (j : Nat) :
    (buildBase p)[i.succ].getLsbD j = decide (i.val = j) := by
  rw [Bool.eq_iff_iff]
  simp
  omega

/-- R71 bit by bit: bit j + 1 moves down to bit j, and bit 0 brings in `p`. -/
theorem getLsbD_clockZeroBit (c : Word) (j : Nat) :
    (clockZeroBit p c).getLsbD j = (c.getLsbD (j + 1) ^^ (c.getLsbD 0 && p.getLsbD j)) := by
  rw [clockZeroBit, BitVec.getLsbD_xor, BitVec.getLsbD_ushiftRight, Nat.add_comm 1 j]
  cases c.getLsbD 0 <;> simp

/-- Of the rows below row 0, bit j + 1 of the vector selects the only one that has bit j set. -/
theorem card_rows_succ_buildBase (c : Word) (j : Nat) :
    (Finset.univ.filter fun i : Fin 63 => c.getLsbD i.succ.val && (buildBase p)[i.succ].getLsbD j).card =
      (c.getLsbD (j + 1)).toNat := by
  simp only [getLsbD_buildBase_succ, Fin.val_succ]
  by_cases hj : j < 63
  · have hsel : ∀ i : Fin 63, (c.getLsbD (i.val + 1) && decide (i.val = j)) =
        (decide (i = ⟨j, hj⟩) && c.getLsbD (j + 1)) := by
      intro i
      by_cases hi : i.val = j <;> simp [hi, Fin.ext_iff]
    simp only [hsel]
    cases c.getLsbD (j + 1) <;> simp [Finset.filter_eq']
  · have hnone : ∀ i : Fin 63, i.val ≠ j := by omega
    have hout : c.getLsbD (j + 1) = false := BitVec.getLsbD_of_ge c (j + 1) (by omega)
    simp [hnone, hout]

/-- R71: bit j counts row 0, which is `p`, and the one row below it that has bit j set. -/
theorem apply_buildBase (c : Word) : apply (buildBase p) c = clockZeroBit p c := by
  apply BitVec.eq_of_getLsbD_eq
  intro j _
  have hrow : (buildBase p)[(0 : Fin 64)] = p := getElem_buildBase p 0 (by decide)
  rw [getLsbD_apply, Fin.card_filter_univ_succ, card_rows_succ_buildBase, hrow, getLsbD_clockZeroBit,
    Fin.val_zero]
  cases c.getLsbD (j + 1) <;> cases c.getLsbD 0 && p.getLsbD j <;> rfl

end baseOperator

/-- Settles O24. -/
theorem baseOperatorClocksOneZeroBit : Obligations.BaseOperatorClocksOneZeroBit := apply_buildBase

section powersOfBase
variable (p : Word)

theorem apply_buildBase_one : apply (buildBase p) 1 = p := by
  simpa using apply_unit (buildBase p) 0

theorem apply_buildBase_unit_succ {i : Nat} (hi : i + 1 < 64) :
    apply (buildBase p) ((1 : Word) <<< (i + 1)) = (1 : Word) <<< i := by
  simpa using apply_unit (buildBase p) ⟨i + 1, hi⟩

/-- R73, i >= n: each clock moves the bit one place down. -/
theorem iterate_apply_buildBase_unit (n : Nat) {i : Nat} (hi : n + i < 64) :
    (apply (buildBase p))^[n] ((1 : Word) <<< (n + i)) = (1 : Word) <<< i := by
  induction n with
  | zero => rw [Function.iterate_zero_apply, Nat.zero_add]
  | succ n ih =>
    rw [Function.iterate_succ_apply, Nat.add_right_comm, apply_buildBase_unit_succ p (by omega), ih (by omega)]

/-- R73, i < n: after i clocks the bit stands at place 0, and the next one puts in `p`. -/
theorem iterate_succ_apply_buildBase_unit {i : Nat} (hi : i < 64) :
    (apply (buildBase p))^[i + 1] ((1 : Word) <<< i) = p := by
  have hlast : (apply (buildBase p))^[i] ((1 : Word) <<< i) = 1 := iterate_apply_buildBase_unit p i (i := 0) hi
  rw [Function.iterate_succ_apply', hlast, apply_buildBase_one]

end powersOfBase

/-- Settles O28: the clocks of `1 << i` are those that move the bit, the one that puts in `p`, and the rest. -/
theorem powerOfBaseHasShiftedRows : Obligations.PowerOfBaseHasShiftedRows := by
  intro p n _ _ i
  split
  · next hni =>
    have h := iterate_apply_buildBase_unit p n (i := i.val - n) (by omega)
    rwa [Nat.add_sub_cancel' hni] at h
  · next hni =>
    have hsplit : n = (n - 1 - i.val) + (i.val + 1) := by omega
    calc (apply (buildBase p))^[n] ((1 : Word) <<< i.val)
        = (apply (buildBase p))^[(n - 1 - i.val) + (i.val + 1)] ((1 : Word) <<< i.val) := by rw [← hsplit]
      _ = (apply (buildBase p))^[n - 1 - i.val] p := by
        rw [Function.iterate_add_apply, iterate_succ_apply_buildBase_unit p i.isLt]

/-- Settles O29: row i is the image of `1 << i`. -/
theorem sameMapSameMatrix : Obligations.SameMapSameMatrix := by
  intro m m' h
  apply Vector.ext
  intro i hi
  calc m[i] = apply m ((1 : Word) <<< i) := (apply_unit m ⟨i, hi⟩).symm
    _ = apply m' ((1 : Word) <<< i) := h _
    _ = m'[i] := apply_unit m' ⟨i, hi⟩

section builderCommands

/-- R72, S = 0: M0, STATUS, and nothing else. -/
theorem exec_zopBase_m0 (s : State) :
    exec (.zopBase .m0) s = .next { s with m0 := buildBase s.poly, status := 0x01 } := by
  rw [exec_zopBase, writeSlot, succeed, successStatus_false]

/-- R72, S = 1: M1, STATUS, and nothing else. -/
theorem exec_zopBase_m1 (s : State) :
    exec (.zopBase .m1) s = .next { s with m1 := buildBase s.poly, status := 0x01 } := by
  rw [exec_zopBase, writeSlot, succeed, successStatus_false]

/-- R74: both slots, STATUS, and nothing else. -/
theorem exec_zopSeed_registers (s : State) :
    exec .zopSeed s = .next { s with
      m0 := square (buildBase s.poly), m1 := square (square (buildBase s.poly)), status := 0x01 } := by
  simp only [exec_zopSeed, writeSlot, succeed, successStatus_false]

/-- Settles O25: the rows are those of `buildBase`, whichever slot they are written to. -/
theorem zopBaseWritesTheSlot : Obligations.ZopBaseWritesTheSlot := by
  refine ⟨by decide, by decide, fun s => ⟨buildBase s.poly, exec_zopBase_m0 s, exec_zopBase_m1 s,
    getElem_buildBase s.poly 0 (by decide), fun i hi => ?_⟩⟩
  exact (getElem_buildBase s.poly i i.isLt).trans (if_neg (Nat.ne_of_gt hi))

/-- R74: squaring the base operator gives two clocks. -/
theorem apply_square_buildBase (p v : Word) : apply (square (buildBase p)) v = (apply (buildBase p))^[2] v :=
  apply_square_of_iterate (n := 1) (fun _ => rfl) v

/-- R74: squaring it again gives four. -/
theorem apply_square_square_buildBase (p v : Word) :
    apply (square (square (buildBase p))) v = (apply (buildBase p))^[4] v :=
  apply_square_of_iterate (apply_square_buildBase p) v

/-- Settles O26: the rows are those of `square`, and the powers follow from R65. -/
theorem zopSeedWritesTheSecondAndFourthPower : Obligations.ZopSeedWritesTheSecondAndFourthPower :=
  ⟨by decide, fun s => ⟨_, _, exec_zopSeed_registers s, fun i => getElem_square _ i i.isLt,
    fun i => getElem_square _ i i.isLt,
    fun v => ⟨apply_square_buildBase s.poly v, apply_square_square_buildBase s.poly v⟩⟩⟩

/-- A command line of a script runs the command with CMD set to its word (R48, R58). -/
theorem afterLine_command {i : Instr} {s t : State} (h : exec i { s with cmd := encode i } = .next t) :
    afterLine (.command i) s = answer (.write .okay) t := by
  have hwrite : transact (commandWrite (encode i)) s = .next (answer (.write .okay) t) := by
    rw [commandWrite, transact, busWrite_cmd, runCommand_of_command (decode_encode i), h, onNext]
  rw [afterLine, lineTransaction, afterTransaction, hwrite]

theorem afterLine_zopSeed (s : State) : afterLine (.command .zopSeed) s = answer (.write .okay) { s with
    cmd := 0x004, m0 := square (buildBase s.poly), m1 := square (square (buildBase s.poly)), status := 0x01 } :=
  afterLine_command (exec_zopSeed_registers _)

theorem afterLine_zopBase_m1 (s : State) : afterLine (.command (.zopBase .m1)) s =
    answer (.write .okay) { s with cmd := 0x103, m1 := buildBase s.poly, status := 0x01 } :=
  afterLine_command (exec_zopBase_m1 _)

theorem afterLine_gf2Square_m0 (s : State) : afterLine (.command (.gf2Square .m0)) s =
    answer (.write .okay) { s with cmd := 0x002, m1 := square s.m0, status := 0x01 } :=
  afterLine_command (exec_gf2Square_m0 _)

theorem afterLine_gf2Square_m1 (s : State) : afterLine (.command (.gf2Square .m1)) s =
    answer (.write .okay) { s with cmd := 0x102, m0 := square s.m1, status := 0x01 } :=
  afterLine_command (exec_gf2Square_m1 _)

/-- Settles O27: line by line, the three commands write the slots that `ZOP.SEED` writes at once. -/
theorem zopSeedEqualsThreeCommands : Obligations.ZopSeedEqualsThreeCommands := by
  intro s
  rw [afterLine_zopSeed, afterLine_zopBase_m1, afterLine_gf2Square_m1, afterLine_gf2Square_m0]
  exact ⟨rfl, rfl, rfl⟩

end builderCommands

end Sys2Proof.Machine

/-!
PROOFS. The ladder of CRC64.COMBINE (42_crc64_combine.md R80 to R84): what one round does to its two slots, the
invariant before each round, and where the loop stops.
-/

namespace Sys2Proof.Machine

section oneRound

/-- A slot of the ladder, as `slot` is one of the block. -/
def Ladder.slot (sl : Slot) (l : Ladder) : GF2Matrix :=
  match sl with
  | .m0 => l.m0
  | .m1 => l.m1

@[simp] theorem Ladder.slot_m0 (l : Ladder) : l.slot .m0 = l.m0 := rfl
@[simp] theorem Ladder.slot_m1 (l : Ladder) : l.slot .m1 = l.m1 := rfl

/-- A block with the two matrices of the ladder has them slot by slot. -/
theorem slot_eq_ladderSlot {s : State} {l : Ladder} (h0 : s.m0 = l.m0) (h1 : s.m1 = l.m1) (sl : Slot) :
    slot sl s = l.slot sl := by
  cases sl
  · exact h0
  · exact h1

theorem slotOfParity_even {k : Nat} (h : k % 2 = 0) : slotOfParity k = .m0 := if_pos h

theorem slotOfParity_odd {k : Nat} (h : k % 2 = 1) : slotOfParity k = .m1 := if_neg (by omega)

/-- R81 (4): the next round uses the other slot. -/
theorem slotOfParity_succ (k : Nat) : slotOfParity (k + 1) = otherSlot (slotOfParity k) := by
  rcases Nat.mod_two_eq_zero_or_one k with hk | hk
  · rw [slotOfParity_even hk, slotOfParity_odd (by omega), otherSlot]
  · rw [slotOfParity_odd hk, slotOfParity_even (by omega), otherSlot]

variable (l : Ladder)

/-- R81, in either parity: the round's slot takes the square of the other one, which stays; the low bit of `n` decides
whether the square is applied; `n` is shifted. -/
theorem ladderRound_spec :
    (ladderRound l).slot (slotOfParity l.k) = square (l.slot (otherSlot (slotOfParity l.k))) ∧
    (ladderRound l).slot (otherSlot (slotOfParity l.k)) = l.slot (otherSlot (slotOfParity l.k)) ∧
    (ladderRound l).acc =
      (if l.n.getLsbD 0 then apply (square (l.slot (otherSlot (slotOfParity l.k)))) l.acc else l.acc) ∧
    (ladderRound l).n = l.n >>> 1 ∧ (ladderRound l).k = l.k + 1 := by
  rcases Nat.mod_two_eq_zero_or_one l.k with hk | hk
  · simp only [slotOfParity_even hk, ladderRound_even hk, otherSlot, Ladder.slot_m0, Ladder.slot_m1, and_self]
  · simp only [slotOfParity_odd hk, ladderRound_odd hk, otherSlot, Ladder.slot_m0, Ladder.slot_m1, and_self]

end oneRound

section invariant
variable (p crc1 len2 : Word)

/-- The ladder before round `k`, which is R83 at the end of round `k - 1`: the slot that round `k` squares stands for
`B^(4 * 2^k)`, the slot that it overwrites for `B^(2 * 2^k)`, and the low `k` bits of the length are done. -/
structure BeforeRound (k : Nat) (l : Ladder) : Prop where
  counter : l.k = k
  remaining : l.n = len2 >>> k
  squared : ∀ v, apply (l.slot (otherSlot (slotOfParity k))) v = (apply (buildBase p))^[4 * 2 ^ k] v
  overwritten : ∀ v, apply (l.slot (slotOfParity k)) v = (apply (buildBase p))^[2 * 2 ^ k] v
  accumulated : l.acc = (apply (buildBase p))^[8 * (len2.toNat % 2 ^ k)] crc1

/-- The seed (R82): `B^2` in M0 and `B^4` in M1, which round 0 squares. -/
theorem beforeRound_ladderStart : BeforeRound p crc1 len2 0 (ladderStart p crc1 len2) where
  counter := rfl
  remaining := (BitVec.ushiftRight_zero len2).symm
  squared := apply_square_square_buildBase p
  overwritten := apply_square_buildBase p
  accumulated := by rw [pow_zero, Nat.mod_one]; rfl

/-- The bit of the length that round `k` looks at. -/
theorem getLsbD_shiftRight_zero (k : Nat) :
    (len2 >>> k).getLsbD 0 = decide (len2.toNat / 2 ^ k % 2 = 1) := by
  rw [BitVec.getLsbD_ushiftRight, Nat.add_zero, ← BitVec.testBit_toNat, Nat.testBit_eq_decide_div_mod_eq]

variable {p crc1 len2}

/-- R83, from one round to the next: squaring doubles the exponent (R65), and bit `k` of the length decides whether
`B^(8 * 2^k)` is applied. -/
theorem BeforeRound.succ {k : Nat} {l : Ladder} (h : BeforeRound p crc1 len2 k l) :
    BeforeRound p crc1 len2 (k + 1) (ladderRound l) := by
  obtain ⟨rfl, hn, hsquared, -, hacc⟩ := h
  obtain ⟨hsame, hother, hacc', hn', hk'⟩ := ladderRound_spec l
  have hnew := apply_square_of_iterate hsquared
  refine ⟨hk', ?_, fun v => ?_, fun v => ?_, ?_⟩
  · rw [hn', hn, BitVec.shiftRight_add]
  · have hexp : 4 * 2 ^ (l.k + 1) = 2 * (4 * 2 ^ l.k) := by ring
    rw [slotOfParity_succ, otherSlot_otherSlot, hsame, hnew, hexp]
  · have hexp : 2 * 2 ^ (l.k + 1) = 4 * 2 ^ l.k := by ring
    rw [slotOfParity_succ, hother, hsquared, hexp]
  · rw [hacc', hn, getLsbD_shiftRight_zero, hacc, Nat.mod_pow_succ]
    rcases Nat.mod_two_eq_zero_or_one (len2.toNat / 2 ^ l.k) with hbit | hbit
    · simp [hbit]
    · have hexp : 8 * (len2.toNat % 2 ^ l.k + 2 ^ l.k * 1) = 2 * (4 * 2 ^ l.k) + 8 * (len2.toNat % 2 ^ l.k) := by ring
      rw [hbit, if_pos (decide_eq_true rfl), hnew, hexp, Function.iterate_add_apply]

/-- R83 after round `k`: the slot just written stands for `B^(8 * 2^k)` (R80). -/
theorem BeforeRound.newest {k : Nat} {l : Ladder} (h : BeforeRound p crc1 len2 (k + 1) l) (v : Word) :
    apply (l.slot (slotOfParity k)) v = (apply (buildBase p))^[8 * 2 ^ k] v := by
  have hexp : 8 * 2 ^ k = 4 * 2 ^ (k + 1) := by ring
  have hslot : slotOfParity k = otherSlot (slotOfParity (k + 1)) := by rw [slotOfParity_succ, otherSlot_otherSlot]
  rw [hexp, hslot, h.squared]

/-- R83 after round `k`: the other slot stands for `B^(4 * 2^k)`. -/
theorem BeforeRound.older {k : Nat} {l : Ladder} (h : BeforeRound p crc1 len2 (k + 1) l) (v : Word) :
    apply (l.slot (otherSlot (slotOfParity k))) v = (apply (buildBase p))^[4 * 2 ^ k] v := by
  have hexp : 4 * 2 ^ k = 2 * 2 ^ (k + 1) := by ring
  rw [hexp, ← slotOfParity_succ, h.overwritten]

variable (p crc1 len2)

/-- R83: every round keeps the invariant. -/
theorem beforeRound_iterate (k : Nat) : BeforeRound p crc1 len2 k (ladderRound^[k] (ladderStart p crc1 len2)) := by
  induction k with
  | zero => exact beforeRound_ladderStart p crc1 len2
  | succ k ih => rw [Function.iterate_succ_apply']; exact ih.succ

end invariant

/-- Settles O33: the ladder after round k is the ladder before round k + 1. -/
theorem ladderRoundInvariant : Obligations.LadderRoundInvariant := by
  intro p crc1 len2 k
  have h := beforeRound_iterate p crc1 len2 (k + 1)
  have hnewest := h.newest
  have holder := h.older
  rcases Nat.mod_two_eq_zero_or_one k with hpar | hpar
  · rw [slotOfParity_even hpar] at hnewest holder
    simp only [hpar, if_true]
    exact ⟨hnewest, holder, h.remaining, h.counter, h.accumulated⟩
  · rw [slotOfParity_odd hpar] at hnewest holder
    simp only [hpar, one_ne_zero, if_false]
    exact ⟨hnewest, holder, h.remaining, h.counter, h.accumulated⟩

section rounds

/-- `R` of R84, the number of rounds that the ladder runs for a length. -/
def roundCount (len2 : Word) : Nat := max 1 (Nat.size len2.toNat)

theorem one_le_roundCount (len2 : Word) : 1 ≤ roundCount len2 := le_max_left _ _

/-- R11: a length whose bit 63 is 0 is below 2^63. -/
theorem toNat_lt_of_not_negative {len2 : Word} (h : len2.getLsbD 63 = false) : len2.toNat < 2 ^ 63 := by
  have hmsb : len2.msb = false := by rwa [BitVec.msb_eq_getLsbD_last]
  have := BitVec.msb_eq_false_iff_two_mul_lt.1 hmsb
  omega

theorem not_negative_of_toNat_lt {len2 : Word} (h : len2.toNat < 2 ^ 63) : len2.getLsbD 63 = false := by
  rw [← BitVec.testBit_toNat]
  exact Nat.testBit_lt_two_pow h

theorem roundCount_le {len2 : Word} (h : len2.getLsbD 63 = false) : roundCount len2 ≤ 63 :=
  max_le (by decide) (Nat.size_le.2 (toNat_lt_of_not_negative h))

/-- After the last round no bit of the length is left. -/
theorem toNat_lt_two_pow_roundCount (len2 : Word) : len2.toNat < 2 ^ roundCount len2 :=
  Nat.size_le.1 (le_max_right _ _)

theorem shiftRight_eq_zero_iff (len2 : Word) (k : Nat) : len2 >>> k = 0 ↔ len2.toNat < 2 ^ k := by
  rw [← BitVec.toNat_inj, BitVec.toNat_ushiftRight, Nat.shiftRight_eq_div_pow]
  exact Nat.div_eq_zero_iff_lt (Nat.two_pow_pos k)

/-- Before a later round a bit of the length is left. -/
theorem two_pow_le_of_lt_roundCount {len2 : Word} {k : Nat} (hk : k < roundCount len2) (h0 : k ≠ 0) :
    2 ^ k ≤ len2.toNat :=
  Nat.lt_size.1 ((lt_max_iff.1 hk).resolve_left (by omega))

/-- The loop ends with the first round that leaves no bit of the length, if its fuel reaches that far. -/
theorem ladderLoop_eq_iterate {fuel R : Nat} {l : Ladder} (hR : R ≤ fuel)
    (hlater : ∀ k < R + 1, k ≠ 0 → (ladderRound^[k] l).n ≠ 0) (hend : (ladderRound^[R + 1] l).n = 0) :
    ladderLoop fuel l = ladderRound^[R + 1] l := by
  induction fuel generalizing R l with
  | zero =>
    obtain rfl : R = 0 := Nat.le_zero.1 hR
    exact ladderLoop_zero l
  | succ fuel ih =>
    rw [ladderLoop_succ]
    cases R with
    | zero => exact if_pos hend
    | succ R =>
      have hn : (ladderRound l).n ≠ 0 := hlater 1 (by omega) one_ne_zero
      rw [if_neg hn, Function.iterate_succ_apply]
      exact ih (by omega) (fun k hk _ => hlater (k + 1) (by omega) (by omega)) hend

variable (p crc1 len2 : Word)

theorem iterate_n_ne_zero {k : Nat} (hk : k < roundCount len2) (h0 : k ≠ 0) :
    (ladderRound^[k] (ladderStart p crc1 len2)).n ≠ 0 := by
  rw [(beforeRound_iterate p crc1 len2 k).remaining, Ne, shiftRight_eq_zero_iff]
  exact Nat.not_lt.2 (two_pow_le_of_lt_roundCount hk h0)

variable {len2}

/-- R84. -/
theorem crcLadder_eq_iterate (h : len2.getLsbD 63 = false) :
    crcLadder p crc1 len2 = ladderRound^[roundCount len2] (ladderStart p crc1 len2) := by
  obtain ⟨R, hR⟩ : ∃ R, roundCount len2 = R + 1 := Nat.exists_eq_add_of_le' (one_le_roundCount len2)
  have hlater := fun k => iterate_n_ne_zero p crc1 len2 (k := k)
  have hend : (ladderRound^[roundCount len2] (ladderStart p crc1 len2)).n = 0 := by
    rw [(beforeRound_iterate p crc1 len2 _).remaining, shiftRight_eq_zero_iff]
    exact toNat_lt_two_pow_roundCount len2
  have hfuel := roundCount_le h
  rw [hR] at hlater hend hfuel ⊢
  exact ladderLoop_eq_iterate (Nat.le_of_succ_le_succ hfuel) hlater hend

theorem beforeRound_crcLadder (h : len2.getLsbD 63 = false) :
    BeforeRound p crc1 len2 (roundCount len2) (crcLadder p crc1 len2) := by
  rw [crcLadder_eq_iterate p crc1 h]
  exact beforeRound_iterate p crc1 len2 _

/-- R83: all bits of the length are done. -/
theorem crcLadder_acc (h : len2.getLsbD 63 = false) :
    (crcLadder p crc1 len2).acc = (apply (buildBase p))^[8 * len2.toNat] crc1 := by
  rw [(beforeRound_crcLadder p crc1 h).accumulated, Nat.mod_eq_of_lt (toNat_lt_two_pow_roundCount len2)]

end rounds

/-- Settles O34: the rounds are counted by `roundCount`. -/
theorem ladderRunsOneRoundPerBit : Obligations.LadderRunsOneRoundPerBit := by
  intro p crc1 len2 h
  exact ⟨one_le_roundCount len2, roundCount_le h, crcLadder_eq_iterate p crc1 h,
    fun _ hk h0 => iterate_n_ne_zero p crc1 len2 hk h0⟩

end Sys2Proof.Machine

/-!
PROOFS. CRC64.COMBINE as a command (42_crc64_combine.md R83, R85, R87): what it writes, and its result as a function of
the two checksums and the length.
-/

namespace Sys2Proof.Machine

section combineCommand

/-- R83 as an effect on the registers: RES, the slots, STATUS, and nothing else. -/
theorem exec_crc64Combine_registers {s : State} (h : s.len.getLsbD 63 = false) :
    exec .crc64Combine s = .next { s with
      res := (apply (buildBase s.poly))^[8 * s.len.toNat] s.opa ^^^ s.opb
      m0 := (crcLadder s.poly s.opa s.len).m0, m1 := (crcLadder s.poly s.opa s.len).m1, status := 0x01 } := by
  simp only [exec_crc64Combine h, crcLadder_acc s.poly s.opa h, writeSlot, writeRes, succeed, successStatus_false]

/-- Settles O31: the closed form and the frame of `exec_crc64Combine_registers`. -/
theorem crc64CombineClocksZeroBytes : Obligations.Crc64CombineClocksZeroBytes :=
  fun _ h => ⟨_, exec_crc64Combine_registers h, rfl, rfl⟩

/-- Settles O32: the slots of the ladder after its last round, which is round R - 1. -/
theorem crc64CombineLeavesPowersInTheSlots : Obligations.Crc64CombineLeavesPowersInTheSlots := by
  intro s h
  refine ⟨_, exec_crc64Combine_registers h, ?_⟩
  obtain ⟨R, hR⟩ : ∃ R, roundCount s.len = R + 1 := Nat.exists_eq_add_of_le' (one_le_roundCount s.len)
  have hlast := beforeRound_crcLadder s.poly s.opa h
  rw [hR] at hlast
  rw [roundCount] at hR
  have height : 2 ^ (R + 1 + 2) = 8 * 2 ^ R := by ring
  have hfour : 2 ^ (R + 1 + 1) = 4 * 2 ^ R := by ring
  simp only [hR, Nat.add_sub_cancel, height, hfour]
  exact ⟨fun v => (congrArg (apply · v) (slot_eq_ladderSlot rfl rfl _)).trans (hlast.newest v),
    fun v => (congrArg (apply · v) (slot_eq_ladderSlot rfl rfl _)).trans (hlast.older v)⟩

end combineCommand

section result

/-- R61 (e) for a power of a map. -/
theorem iterate_apply_xor (m : GF2Matrix) (n : Nat) (a b : Word) :
    (apply m)^[n] (a ^^^ b) = (apply m)^[n] a ^^^ (apply m)^[n] b :=
  Function.Semiconj₂.iterate (op := (· ^^^ ·)) (apply_xor m) n a b

/-- R61 (c) for a power of a map. -/
theorem iterate_apply_zero (m : GF2Matrix) (n : Nat) : (apply m)^[n] 0 = 0 :=
  Function.iterate_fixed (apply_zero m) n

/-- R87 (d): for POLY = 0 each clock is a shift right by one. -/
theorem iterate_apply_buildBase_zero (n : Nat) (v : Word) : (apply (buildBase 0))^[n] v = v >>> n := by
  induction n with
  | zero => exact (BitVec.ushiftRight_zero v).symm
  | succ n ih =>
    have hclock : ∀ c, apply (buildBase 0) c = c >>> 1 := fun c => by rw [apply_buildBase, clockZeroBit]; simp
    rw [Function.iterate_succ_apply', ih, hclock, BitVec.shiftRight_add]

/-- Settles O35: each clause is the closed form of R83 at one value of an operand. -/
theorem crc64CombineCornerCases : Obligations.Crc64CombineCornerCases := by
  refine fun s h => ⟨_, exec_crc64Combine_registers h, fun hlen => ?_, fun hopa => ?_, fun hopb => ?_, fun hpoly => ?_⟩
  · simp only [hlen]; rfl
  · rw [hopa, iterate_apply_zero]; exact BitVec.zero_xor
  · simp [hopb]
  · simp only [hpoly, iterate_apply_buildBase_zero]

/-- Settles O36: the second combine clocks its zero bits after those of the first. -/
theorem crc64CombineLengthsAdd : Obligations.Crc64CombineLengthsAdd := by
  intro s l₁ l₂ hsum
  have htotal : (l₁ + l₂).toNat = l₁.toNat + l₂.toNat := BitVec.toNat_add_of_lt (by omega)
  have h₁ : l₁.getLsbD 63 = false := not_negative_of_toNat_lt (by omega)
  have h₂ : l₂.getLsbD 63 = false := not_negative_of_toNat_lt (by omega)
  have h₃ : (l₁ + l₂).getLsbD 63 = false := not_negative_of_toNat_lt (by omega)
  refine ⟨_, _, _, exec_crc64Combine_registers h₁, exec_crc64Combine_registers h₂, exec_crc64Combine_registers h₃, ?_⟩
  have hexp : 8 * (l₁ + l₂).toNat = 8 * l₂.toNat + 8 * l₁.toNat := by omega
  rw [hexp, Function.iterate_add_apply]
  simp

/-- Settles O37: the clocked zero bits are a linear map (R61), and the final XOR adds OPB. -/
theorem crc64CombineIsAffine : Obligations.Crc64CombineIsAffine := by
  intro s x h
  refine ⟨_, _, _, _, exec_crc64Combine_registers h, exec_crc64Combine_registers h, exec_crc64Combine_registers h,
    exec_crc64Combine_registers h, ?_, ?_⟩
  · simp
  · simp [iterate_apply_xor]

end result

end Sys2Proof.Machine

/-!
PROOFS. The host script of CRC64.COMBINE (42_crc64_combine.md R86): a round of the script does to M0, M1 and the host's
`acc` what a round of the ladder does.
-/

namespace Sys2Proof.Machine

section scriptLines
variable (s : State)

theorem afterLine_gf2Square (sl : Slot) : afterLine (.command (.gf2Square sl)) s =
    answer (.write .okay) (succeed false (writeSlot (otherSlot sl) (square (slot sl s))
      { s with cmd := encode (.gf2Square sl) })) := by
  cases sl <;> exact afterLine_command (exec_gf2Square _ _)

theorem afterLine_gf2Apply (sl : Slot) : afterLine (.command (.gf2Apply sl)) s =
    answer (.write .okay) (succeed false (writeRes (apply (slot sl s) s.opa)
      { s with cmd := encode (.gf2Apply sl) })) := by
  cases sl <;> exact afterLine_command (exec_gf2Apply _ _)

theorem afterLine_wr_opa (v : Word) : afterLine (.wr .opa v) s = answer (.write .okay) { s with opa := v } := by
  rw [afterLine, lineTransaction, afterTransaction, transact, busWrite_offsetOf (r := .opa) nofun rfl]

theorem afterLine_rd (r : WindowReg) : afterLine (.rd r) s = answer (.read .okay (readReg r s)) s := by
  rw [afterLine, lineTransaction, afterTransaction, transact, busRead_offsetOf]

/-- The line of R86 that squares the other slot into slot `d`. -/
def squareLine (d : Slot) : State := afterLine (.command (.gf2Square (otherSlot d))) s

theorem slot_squareLine (d sl : Slot) :
    slot sl (squareLine s d) = slot sl (writeSlot d (square (slot (otherSlot d) s)) s) := by
  rw [squareLine, afterLine_gf2Square, slot_answer, slot_succeed, otherSlot_otherSlot]
  cases d <;> cases sl <;> rfl

/-- `WR OPA, acc; GF2.APPLY S; RD RES -> acc` (R86). -/
def applyLines (sl : Slot) (acc : Word) : State :=
  afterLine (.rd .res) (afterLine (.command (.gf2Apply sl)) (afterLine (.wr .opa acc) s))

/-- The three lines leave the slots. -/
theorem slot_applyLines (sl sl' : Slot) (acc : Word) : slot sl' (applyLines s sl acc) = slot sl' s := by
  rw [applyLines, afterLine_wr_opa, afterLine_gf2Apply, afterLine_rd]
  cases sl' <;> rfl

/-- The three lines hand the host the new `acc`. -/
theorem readData_applyLines (sl : Slot) (acc : Word) : readData acc (applyLines s sl acc) = apply (slot sl s) acc := by
  rw [applyLines, afterLine_wr_opa, afterLine_gf2Apply, afterLine_rd]
  cases sl <;> rfl

end scriptLines

section simulation

/-- The script has in M0, M1 and the host's `acc` what the ladder has. -/
structure Simulates (b : State × Word) (l : Ladder) : Prop where
  slots : ∀ sl, slot sl b.1 = l.slot sl
  acc : b.2 = l.acc

theorem slot_eq_or_otherSlot (d sl : Slot) : sl = d ∨ sl = otherSlot d := by
  cases d <;> cases sl <;> simp [otherSlot]

variable (k : Nat) (n : Word) (b : State × Word)

theorem combineScriptRound_of_odd (hn : n.getLsbD 0 = true) : combineScriptRound k n b =
    (applyLines (squareLine b.1 (slotOfParity k)) (slotOfParity k) b.2,
      readData b.2 (applyLines (squareLine b.1 (slotOfParity k)) (slotOfParity k) b.2)) := by
  rw [combineScriptRound, if_pos hn]; rfl

theorem combineScriptRound_of_even (hn : n.getLsbD 0 = false) :
    combineScriptRound k n b = (squareLine b.1 (slotOfParity k), b.2) := by
  rw [combineScriptRound, hn, if_neg Bool.false_ne_true, squareLine]

/-- One round of the script, to the slots: the applying lines leave what the squaring line wrote. -/
theorem slot_combineScriptRound (sl : Slot) : slot sl (combineScriptRound k n b).1 =
    slot sl (writeSlot (slotOfParity k) (square (slot (otherSlot (slotOfParity k)) b.1)) b.1) := by
  cases hn : n.getLsbD 0
  · rw [combineScriptRound_of_even k n b hn, slot_squareLine]
  · rw [combineScriptRound_of_odd k n b hn, slot_applyLines, slot_squareLine]

/-- One round of the script, to the host's `acc`. -/
theorem combineScriptRound_acc : (combineScriptRound k n b).2 =
    if n.getLsbD 0 then apply (square (slot (otherSlot (slotOfParity k)) b.1)) b.2 else b.2 := by
  cases hn : n.getLsbD 0
  · rw [combineScriptRound_of_even k n b hn, if_neg Bool.false_ne_true]
  · rw [combineScriptRound_of_odd k n b hn, if_pos rfl, readData_applyLines, slot_squareLine, slot_writeSlot_same]

variable {b} {l : Ladder}

theorem Simulates.round (h : Simulates b l) : Simulates (combineScriptRound l.k l.n b) (ladderRound l) := by
  obtain ⟨hsame, hother, hacc, -, -⟩ := ladderRound_spec l
  refine ⟨fun sl => ?_, ?_⟩
  · rw [slot_combineScriptRound]
    rcases slot_eq_or_otherSlot (slotOfParity l.k) sl with rfl | rfl
    · rw [slot_writeSlot_same, hsame, h.slots]
    · rw [slot_writeSlot_other, hother, h.slots]
  · rw [combineScriptRound_acc, hacc, h.slots, h.acc]

/-- R86: the script's `until n = 0` and the ladder's test agree, round by round. -/
theorem Simulates.rounds (fuel : Nat) (h : Simulates b l) :
    Simulates (combineScriptRounds fuel l.k l.n b) (ladderLoop fuel l) := by
  induction fuel generalizing b l with
  | zero => rw [ladderLoop_zero]; exact h.round
  | succ fuel ih =>
    obtain ⟨-, -, -, hn, hk⟩ := ladderRound_spec l
    rw [ladderLoop_succ, combineScriptRounds, hn]
    split
    · exact h.round
    · rw [← hn, ← hk]; exact ih h.round

end simulation

/-- The script after `ZOP.SEED` is where the ladder starts. -/
theorem simulates_ladderStart (s : State) :
    Simulates (afterLine (.command .zopSeed) s, s.opa) (ladderStart s.poly s.opa s.len) := by
  rw [afterLine_zopSeed]
  exact ⟨slot_eq_ladderSlot rfl rfl, rfl⟩

/-- Settles O38: the script simulates the ladder to its end, and the host's XOR is the command's. -/
theorem crc64CombineEqualsItsScript : Obligations.Crc64CombineEqualsItsScript := by
  intro s h
  obtain ⟨hslots, hacc⟩ := (simulates_ladderStart s).rounds 62
  exact ⟨_, exec_crc64Combine h, (hslots .m0).symm, (hslots .m1).symm, congrArg (· ^^^ s.opb) hacc.symm⟩

end Sys2Proof.Machine

/-!
PROOFS. CRC64.COMBINE and the CRC-64 of byte sequences (42_crc64_combine.md R88, with G2 of 93_implementation_defined.md,
log 13): the register is linear in what it starts from, and each byte clocks it eight times.
-/

namespace Sys2Proof.Machine

section byteSequences
variable (p : Word)

/-- A byte on a register that holds also `d`: the eight clocks of `d` are added. -/
theorem crcByte_xor (c d : Word) (x : Byte) :
    crcByte p (c ^^^ d) x = crcByte p c x ^^^ (apply (buildBase p))^[8] d := by
  have hclock : clockZeroBit p = apply (buildBase p) := funext fun c => (apply_buildBase p c).symm
  have hswap : c ^^^ d ^^^ x.setWidth 64 = (c ^^^ x.setWidth 64) ^^^ d := by ac_rfl
  rw [crcByte, crcByte, hclock, hswap, iterate_apply_xor]

/-- What the register holds besides, before a sequence of bytes, gets eight zero bits per byte. -/
theorem foldl_crcByte_xor (bytes : List Byte) (c d : Word) :
    bytes.foldl (crcByte p) (c ^^^ d) =
      bytes.foldl (crcByte p) c ^^^ (apply (buildBase p))^[8 * bytes.length] d := by
  induction bytes generalizing c d with
  | nil => rfl
  | cons x bytes ih =>
    rw [List.foldl_cons, List.foldl_cons, crcByte_xor, ih, List.length_cons, Nat.mul_succ, Function.iterate_add_apply]

/-- R88: the register after A is all ones and the CRC-64 of A, so B after A gives the register of B alone and the zero
bytes clocked through the CRC-64 of A. -/
theorem crc64_append (a b : List Byte) :
    crc64 p (a ++ b) = (apply (buildBase p))^[8 * b.length] (crc64 p a) ^^^ crc64 p b := by
  have hstart : a.foldl (crcByte p) (BitVec.allOnes 64) = BitVec.allOnes 64 ^^^ crc64 p a := by
    rw [crc64, BitVec.xor_comm, BitVec.xor_assoc, BitVec.xor_self, BitVec.xor_zero]
  have hb : crc64 p b = b.foldl (crcByte p) (BitVec.allOnes 64) ^^^ BitVec.allOnes 64 := rfl
  rw [hb, crc64, List.foldl_append, hstart, foldl_crcByte_xor]
  ac_rfl

end byteSequences

/-- Settles O39: the closed form of R83 at the two checksums is the right side of `crc64_append`. -/
theorem crc64CombineGivesCrcOfConcatenation : Obligations.Crc64CombineGivesCrcOfConcatenation := by
  intro s a b hb hopa hopb hlen
  have hbytes : s.len.toNat = b.length := by
    rw [hlen, BitVec.toNat_ofNat, Nat.mod_eq_of_lt (by omega)]
  have hpos : s.len.getLsbD 63 = false := not_negative_of_toNat_lt (by omega)
  refine ⟨_, exec_crc64Combine_registers hpos, ?_, rfl⟩
  rw [crc64_append, ← hopa, ← hopb, ← hbytes]

end Sys2Proof.Machine

/-!
PROOFS. ADLER32.COMBINE (43_adler32_combine.md): its pseudocode on numbers (R91), the ranges of its sums (R92), how they
are packed (R93), and the true remainders of reduced inputs (R94).
-/

namespace Sys2Proof.Machine

section operands
variable (s : State)

theorem low16_adler1Operand : (low16 (adler1Operand s)).toNat = s.opa.toNat % 65536 := low16_toNat s.opa

theorem high16_adler1Operand : (high16 (adler1Operand s)).toNat = s.opa.toNat / 65536 % 65536 := high16_toNat s.opa

theorem low16_adler2Operand : (low16 (adler2Operand s)).toNat = s.opb.toNat % 65536 := low16_toNat s.opb

theorem high16_adler2Operand : (high16 (adler2Operand s)).toNat = s.opb.toNat / 65536 % 65536 := high16_toNat s.opb

end operands

section halves
variable {a1 a2 : BitVec 32}

theorem halfUnreduced_iff (h : BitVec 16) : halfUnreduced h = true ↔ 65521 ≤ h.toNat := decide_eq_true_iff

/-- UNRED on the numbers of the four halves (R91, R96). -/
theorem adlerUnreduced_iff : adlerUnreduced a1 a2 = true ↔
    65521 ≤ (low16 a1).toNat ∨ 65521 ≤ (high16 a1).toNat ∨ 65521 ≤ (low16 a2).toNat ∨ 65521 ≤ (high16 a2).toNat := by
  simp only [adlerUnreduced, Bool.or_eq_true, halfUnreduced_iff, or_assoc]

/-- Both inputs are reduced (R96). -/
theorem adlerUnreduced_eq_false_iff : adlerUnreduced a1 a2 = false ↔
    (low16 a1).toNat < 65521 ∧ (high16 a1).toNat < 65521 ∧ (low16 a2).toNat < 65521 ∧ (high16 a2).toNat < 65521 := by
  simp only [← Bool.not_eq_true, adlerUnreduced_iff, not_or, Nat.not_le]

end halves

section sums
variable (a1 a2 : BitVec 32)

/-- M as a numeral (R5), for `omega`. -/
theorem modulus_eq : modulus = 65521 := rfl

theorem adlerSum1Before_eq : adlerSum1Before a1 a2 = (low16 a1).toNat + ((low16 a2).toNat + 65521 - 1) := by
  rw [adlerSum1Before, modulus_eq]; omega

theorem adlerSum2Before_eq {rem : Nat} (h : rem < 65521) : adlerSum2Before a1 a2 rem =
    rem * (low16 a1).toNat % 65521 + ((high16 a1).toNat + (high16 a2).toNat + (65521 - rem)) := by
  rw [adlerSum2Before, modulus_eq]; omega

theorem adlerSum1_eq : adlerSum1 a1 a2 = subtractOnce 65521 (subtractOnce 65521 (adlerSum1Before a1 a2)) := by
  rw [adlerSum1, modulus_eq]

theorem adlerSum2_eq (rem : Nat) :
    adlerSum2 a1 a2 rem = subtractOnce 65521 (subtractOnce (2 * 65521) (adlerSum2Before a1 a2 rem)) := by
  rw [adlerSum2, modulus_eq]

theorem adlerRem_eq (len2 : Word) : adlerRem len2 = len2.toNat % 65521 := by rw [adlerRem, modulus_eq]

theorem adlerRem_lt (len2 : Word) : adlerRem len2 < 65521 := by
  rw [adlerRem_eq]; exact Nat.mod_lt _ (by decide)

/-- R92: "rem = 0 makes the product 0", so the sum of the four greatest terms is never reached. -/
theorem adlerSum2Before_le {rem : Nat} (h : rem < 65521) : adlerSum2Before a1 a2 rem ≤ 262110 := by
  have h1 := (high16 a1).isLt
  have h2 := (high16 a2).isLt
  rw [adlerSum2Before_eq a1 a2 h]
  rcases Nat.eq_zero_or_pos rem with rfl | hpos
  · rw [Nat.zero_mul]; omega
  · omega

/-- What "subtracting M up to twice" leaves of a `sum1` in its range (R92). -/
theorem subtractOnce_twice_le {x : Nat} (h : x ≤ 196590) :
    subtractOnce 65521 (subtractOnce 65521 x) ≤ 65548 := by
  unfold subtractOnce
  split_ifs <;> omega

/-- What "subtracting 2M once if needed, then M once if needed" leaves of a `sum2` in its range (R92). -/
theorem subtractOnce_double_le {x : Nat} (h : x ≤ 262110) :
    subtractOnce 65521 (subtractOnce (2 * 65521) x) ≤ 65547 := by
  unfold subtractOnce
  split_ifs <;> omega

end sums

/-- Settles O42: the ranges of the halves bound the sums before the subtractions, and these the sums after. -/
theorem adler32IntermediatesStayInRange : Obligations.Adler32IntermediatesStayInRange := by
  intro a1 a2 rem hrem
  have hl1 := (low16 a1).isLt
  have hl2 := (low16 a2).isLt
  have hproduct : rem * (low16 a1).toNat ≤ 65520 * 65535 := Nat.mul_le_mul (by omega) (by omega)
  have hsum1 : adlerSum1Before a1 a2 ≤ 196590 := by rw [adlerSum1Before_eq]; omega
  have hsum2 := adlerSum2Before_le a1 a2 hrem
  rw [adlerSum1_eq, adlerSum2_eq]
  refine ⟨hproduct, ?_, hsum1, ?_, hsum2, subtractOnce_twice_le hsum1, subtractOnce_double_le hsum2⟩
  · rw [adlerSum1Before_eq]; omega
  · rw [adlerSum2Before_eq a1 a2 hrem]; omega

section reducedSums
variable {a1 a2 : BitVec 32}

/-- R94: `sum1` of reduced inputs is a true remainder, since it starts below 3M. -/
theorem adlerSum1_of_reduced (h : adlerUnreduced a1 a2 = false) :
    adlerSum1 a1 a2 = ((low16 a1).toNat + ((low16 a2).toNat + 65521 - 1)) % 65521 := by
  obtain ⟨hl1, -, hl2, -⟩ := adlerUnreduced_eq_false_iff.1 h
  rw [adlerSum1_eq, subtractOnce_twice (by rw [adlerSum1Before_eq]; omega), adlerSum1Before_eq]

/-- R94: `sum2` of reduced inputs is a true remainder, since it starts below 4M. -/
theorem adlerSum2_of_reduced (h : adlerUnreduced a1 a2 = false) {rem : Nat} (hrem : rem < 65521) :
    adlerSum2 a1 a2 rem =
      (rem * (low16 a1).toNat + ((high16 a1).toNat + (high16 a2).toNat + (65521 - rem))) % 65521 := by
  obtain ⟨-, hh1, -, hh2⟩ := adlerUnreduced_eq_false_iff.1 h
  have hbefore : adlerSum2Before a1 a2 rem < 4 * 65521 := by rw [adlerSum2Before_eq a1 a2 hrem]; omega
  rw [adlerSum2_eq, subtractOnce_double hbefore, adlerSum2Before_eq a1 a2 hrem, Nat.mod_add_mod]

end reducedSums

section packing

theorem shiftLeft_16 (y : Nat) : y <<< 16 = y * 65536 := Nat.shiftLeft_eq y 16

/-- R93 with the shift as a product. -/
theorem setWidth_adlerCombine (a1 a2 : BitVec 32) (len2 : Word) : (adlerCombine a1 a2 len2).setWidth 64 =
    BitVec.ofNat 64 ((adlerSum1 a1 a2 ||| adlerSum2 a1 a2 (adlerRem len2) * 65536) % 2 ^ 32) := by
  apply BitVec.eq_of_toNat_eq
  rw [adlerCombine, shiftLeft_16, BitVec.toNat_setWidth_of_le (by decide), BitVec.toNat_ofNat, BitVec.toNat_ofNat]
  omega

/-- R93: two numbers of 16 bits are packed without loss. -/
theorem lor_mul_mod_of_lt {x y : Nat} (hx : x < 65536) (hy : y < 65536) :
    (x ||| y * 65536) % 2 ^ 32 = y * 65536 + x := by
  have hpack : y <<< 16 + x = y <<< 16 ||| x := Nat.shiftLeft_add_eq_or_of_lt hx y
  rw [← shiftLeft_16, Nat.lor_comm, ← hpack, shiftLeft_16, Nat.mod_eq_of_lt (by omega)]

/-- R93: RES when both sums fit 16 bits. -/
theorem toNat_setWidth_adlerCombine {a1 a2 : BitVec 32} {len2 : Word} (h1 : adlerSum1 a1 a2 < 65536)
    (h2 : adlerSum2 a1 a2 (adlerRem len2) < 65536) :
    ((adlerCombine a1 a2 len2).setWidth 64).toNat =
      adlerSum2 a1 a2 (adlerRem len2) * 65536 + adlerSum1 a1 a2 := by
  rw [setWidth_adlerCombine, lor_mul_mod_of_lt h1 h2, BitVec.toNat_ofNat, Nat.mod_eq_of_lt (by omega)]

end packing

section combineAdler

/-- A success that writes RES, as an effect on the registers. -/
theorem succeed_writeRes (u : Bool) (v : Word) (s : State) :
    succeed u (writeRes v s) = { s with res := v, status := successStatus u } := rfl

/-- R91 as an effect on the registers: RES, STATUS, and nothing else. -/
theorem exec_adler32Combine_registers {s : State} (h : s.len.getLsbD 63 = false) :
    exec .adler32Combine s = .next { s with
      res := (adlerCombine (adler1Operand s) (adler2Operand s) s.len).setWidth 64
      status := successStatus (adlerUnreduced (adler1Operand s) (adler2Operand s)) } := by
  rw [exec_adler32Combine h, succeed_writeRes]

/-- STATUS after a success, with UNRED as R91 states it. -/
theorem successStatus_adlerUnreduced (a1 a2 : BitVec 32) : successStatus (adlerUnreduced a1 a2) =
    if (low16 a1).toNat ≥ 65521 ∨ (high16 a1).toNat ≥ 65521 ∨ (low16 a2).toNat ≥ 65521 ∨ (high16 a2).toNat ≥ 65521
    then 0x05 else 0x01 := by
  split
  · next hbig => rw [adlerUnreduced_iff.2 hbig, successStatus_true]
  · next hsmall => rw [Bool.eq_false_iff.2 (mt adlerUnreduced_iff.1 hsmall), successStatus_false]

/-- Settles O40: the sums of the model are the rule's, term by term. -/
theorem adler32CombineFollowsItsPseudocode : Obligations.Adler32CombineFollowsItsPseudocode := by
  refine ⟨by decide, fun s => ?_⟩
  intro M lo1 hi1 lo2 hi2 rem sum1Before sum2Before sum1Once sum1 sum2Once sum2 unred
  have hsum1 : adlerSum1 (adler1Operand s) (adler2Operand s) = sum1 := by
    have hbefore : adlerSum1Before (adler1Operand s) (adler2Operand s) = sum1Before := by
      rw [adlerSum1Before_eq, low16_adler1Operand, low16_adler2Operand]
    rw [adlerSum1_eq, hbefore, subtractOnce, subtractOnce]
  have hsum2 : adlerSum2 (adler1Operand s) (adler2Operand s) (adlerRem s.len) = sum2 := by
    have hrem : rem < 65521 := Nat.mod_lt _ (by decide)
    have hbefore : adlerSum2Before (adler1Operand s) (adler2Operand s) rem = sum2Before := by
      rw [adlerSum2Before_eq _ _ hrem, low16_adler1Operand, high16_adler1Operand, high16_adler2Operand]
    rw [adlerSum2_eq, adlerRem_eq, hbefore, subtractOnce, subtractOnce]
  refine ⟨exec_adler32Combine_negative, fun h => ?_⟩
  rw [exec_adler32Combine_registers h, setWidth_adlerCombine, hsum1, hsum2, successStatus_adlerUnreduced,
    low16_adler1Operand, high16_adler1Operand, low16_adler2Operand, high16_adler2Operand]

/-- Settles O43: the cut keeps bits 31:0, and below bit 16 there is only `sum1`. -/
theorem adler32ResultIsTheLow32Bits : Obligations.Adler32ResultIsTheLow32Bits := by
  refine fun s h => ⟨_, exec_adler32Combine_registers h, setWidth_64_toNat_lt _, toNat_setWidth_adlerCombine, ?_⟩
  intro j hj
  have hj64 : j < 64 := by omega
  simp only [adlerCombine, BitVec.getLsbD_setWidth, BitVec.getLsbD_ofNat, Nat.testBit_or, Nat.testBit_shiftLeft,
    hj, hj64, decide_true, Bool.true_and, ge_iff_le]

/-- Settles O44: of OPA and OPB the command reads bits 31:0, and it writes neither. -/
theorem adler32IgnoresUpperOperandBits : Obligations.Adler32IgnoresUpperOperandBits := by
  intro s x y hx hy
  have h1 : adler1Operand { s with opa := x, opb := y } = adler1Operand s := hx
  have h2 : adler2Operand { s with opa := x, opb := y } = adler2Operand s := hy
  cases hl : s.len.getLsbD 63 with
  | true =>
    exact ⟨_, exec_adler32Combine_negative hl, exec_adler32Combine_negative (s := { s with opa := x, opb := y }) hl⟩
  | false =>
    exact ⟨_, exec_adler32Combine_registers hl,
      (exec_adler32Combine_registers (s := { s with opa := x, opb := y }) hl).trans (by rw [h1, h2])⟩

end combineAdler

section reducedInputs

/-- R94: STATUS and RES for reduced inputs. -/
theorem exec_adler32Combine_of_reduced {s : State} (hl : s.len.getLsbD 63 = false)
    (h : adlerUnreduced (adler1Operand s) (adler2Operand s) = false) :
    exec .adler32Combine s = .next { s with
      res := (adlerCombine (adler1Operand s) (adler2Operand s) s.len).setWidth 64, status := 0x01 } := by
  rw [exec_adler32Combine_registers hl, h, successStatus_false]

/-- R94: RES of reduced inputs, as a number. -/
theorem toNat_adlerCombine_of_reduced {a1 a2 : BitVec 32} (h : adlerUnreduced a1 a2 = false) (len2 : Word) :
    ((adlerCombine a1 a2 len2).setWidth 64).toNat =
      (adlerRem len2 * (low16 a1).toNat + ((high16 a1).toNat + (high16 a2).toNat + (65521 - adlerRem len2))) % 65521
        * 65536 + ((low16 a1).toNat + ((low16 a2).toNat + 65521 - 1)) % 65521 := by
  have h1 := adlerSum1_of_reduced h
  have h2 := adlerSum2_of_reduced h (adlerRem_lt len2)
  rw [toNat_setWidth_adlerCombine (by omega) (by omega), h1, h2]

/-- The four halves of the operand words decide whether the inputs are reduced (R96). -/
theorem adlerUnreduced_operands_eq_false {s : State} (h1 : s.opa.toNat % 65536 < 65521)
    (h2 : s.opa.toNat / 65536 % 65536 < 65521) (h3 : s.opb.toNat % 65536 < 65521)
    (h4 : s.opb.toNat / 65536 % 65536 < 65521) :
    adlerUnreduced (adler1Operand s) (adler2Operand s) = false := by
  rw [adlerUnreduced_eq_false_iff, low16_adler1Operand, high16_adler1Operand, low16_adler2Operand, high16_adler2Operand]
  exact ⟨h1, h2, h3, h4⟩

/-- R94: adding M - 1 is taking away 1 modulo M. -/
theorem natCast_sum1_mod (x y : Nat) :
    (((x % 65536 + (y % 65536 + 65521 - 1)) % 65521 : Nat) : Int) =
      ((x : Int) % 65536 + (y : Int) % 65536 - 1) % 65521 := by
  omega

/-- R94: adding M - rem is taking away rem modulo M. -/
theorem natCast_sum2_mod (x y l : Nat) :
    (((l % 65521 * (x % 65536) + (x / 65536 % 65536 + y / 65536 % 65536 + (65521 - l % 65521))) % 65521 : Nat) : Int) =
      ((l : Int) % 65521 * ((x : Int) % 65536) + (x : Int) / 65536 % 65536 + (y : Int) / 65536 % 65536
        - (l : Int) % 65521) % 65521 := by
  have hproduct : (l : Int) % 65521 * ((x : Int) % 65536) = ((l % 65521 * (x % 65536) : Nat) : Int) := by norm_cast
  rw [hproduct]
  omega

/-- Settles O41: RES holds the two remainders, one in each half. -/
theorem adler32ReducedInputsGiveReducedOutput : Obligations.Adler32ReducedInputsGiveReducedOutput := by
  intro s hl
  dsimp only
  intro h1 h2 h3 h4
  have hred := adlerUnreduced_operands_eq_false (s := s) (by omega) (by omega) (by omega) (by omega)
  refine ⟨_, exec_adler32Combine_of_reduced hl hred, rfl, ?_⟩
  rw [toNat_adlerCombine_of_reduced hred, low16_adler1Operand, high16_adler1Operand, low16_adler2Operand,
    high16_adler2Operand, adlerRem_eq, ← natCast_sum1_mod, ← natCast_sum2_mod]
  constructor <;> omega

/-- R97 (a): an empty B adds nothing. -/
theorem adlerCombine_empty {s : State} (hlen : s.len = 0) (hopb : s.opb = 1)
    (hopa : s.opa.toNat < 2 ^ 32) (h : adlerUnreduced (adler1Operand s) (adler2Operand s) = false) :
    (adlerCombine (adler1Operand s) (adler2Operand s) s.len).setWidth 64 = s.opa := by
  obtain ⟨hl, hh, -, -⟩ := adlerUnreduced_eq_false_iff.1 h
  rw [low16_adler1Operand] at hl
  rw [high16_adler1Operand] at hh
  have hrem : adlerRem s.len = 0 := by rw [hlen]; decide
  have hone : s.opb.toNat = 1 := by rw [hopb]; rfl
  apply BitVec.eq_of_toNat_eq
  rw [toNat_adlerCombine_of_reduced h, hrem, Nat.zero_mul, low16_adler1Operand, high16_adler1Operand,
    low16_adler2Operand, high16_adler2Operand, hone]
  omega

/-- R97 (b): the result depends on the length modulo M. -/
theorem adlerCombine_congr_len (a1 a2 : BitVec 32) {l l' : Word} (h : adlerRem l = adlerRem l') :
    adlerCombine a1 a2 l = adlerCombine a1 a2 l' := by
  rw [adlerCombine, adlerCombine, h]

theorem toNat_multiple {n : Nat} (h : n * 65521 < 2 ^ 63) : (BitVec.ofNat 64 (n * 65521)).toNat = n * 65521 := by
  rw [BitVec.toNat_ofNat, Nat.mod_eq_of_lt (by omega)]

/-- R91 with another length at LEN. -/
theorem exec_adler32Combine_withLen (s : State) {l : Word} (h : l.getLsbD 63 = false) :
    exec .adler32Combine { s with len := l } = .next { s with
      res := (adlerCombine (adler1Operand s) (adler2Operand s) l).setWidth 64
      status := successStatus (adlerUnreduced (adler1Operand s) (adler2Operand s))
      len := l } :=
  exec_adler32Combine_registers (s := { s with len := l }) h

/-- Settles O45: (a) is `adlerCombine_empty`; (b) holds as the two lengths have the same remainder. -/
theorem adler32CornerCases : Obligations.Adler32CornerCases := by
  refine fun s => ⟨fun hlen hopb hopa hlow hhigh => ?_, fun n hn => ?_⟩
  · have hred := adlerUnreduced_operands_eq_false (s := s) hlow (by omega) (by rw [hopb]; decide) (by rw [hopb]; decide)
    rw [exec_adler32Combine_of_reduced (by rw [hlen]; decide) hred, adlerCombine_empty hlen hopb hopa hred]
  · have hmultiple : (BitVec.ofNat 64 (n * 65521)).getLsbD 63 = false :=
      not_negative_of_toNat_lt (by rwa [toNat_multiple hn])
    have hrem : adlerRem (BitVec.ofNat 64 (n * 65521)) = adlerRem 0 := by
      rw [adlerRem_eq, toNat_multiple hn, Nat.mul_mod_left]; decide
    refine ⟨{ s with
      res := (adlerCombine (adler1Operand s) (adler2Operand s) 0).setWidth 64
      status := successStatus (adlerUnreduced (adler1Operand s) (adler2Operand s)) },
      exec_adler32Combine_withLen s (by decide), ?_⟩
    rw [exec_adler32Combine_withLen s hmultiple, adlerCombine_congr_len _ _ hrem]

end reducedInputs

end Sys2Proof.Machine

/-!
PROOFS. ADLER32.COMBINE and the Adler-32 of byte sequences (43_adler32_combine.md R98, with G3 of
93_implementation_defined.md, log 13): what the running sums hold before a sequence is carried through it.
-/

namespace Sys2Proof.Machine

section runningSums

/-- The two running sums of Adler-32 over a sequence (G3). -/
def adlerSums (bytes : List Byte) : Nat × Nat := bytes.foldl adlerByte (1, 0)

/-- Each byte leaves both sums reduced. -/
theorem foldl_adlerByte_lt (bytes : List Byte) {sums : Nat × Nat} (h1 : sums.1 < 65521) (h2 : sums.2 < 65521) :
    (bytes.foldl adlerByte sums).1 < 65521 ∧ (bytes.foldl adlerByte sums).2 < 65521 := by
  induction bytes generalizing sums with
  | nil => exact ⟨h1, h2⟩
  | cons x bytes ih => exact ih (Nat.mod_lt _ (by decide)) (Nat.mod_lt _ (by decide))

theorem adlerSums_lt (bytes : List Byte) : (adlerSums bytes).1 < 65521 ∧ (adlerSums bytes).2 < 65521 :=
  foldl_adlerByte_lt bytes (by decide) (by decide)

/-- A byte on sums that hold `d` and `e` more: the second sum takes up `d` once more. -/
theorem adlerByte_add {d e : Nat} {sums sums' : Nat × Nat} (h1 : sums'.1 ≡ sums.1 + d [MOD 65521])
    (h2 : sums'.2 ≡ sums.2 + e [MOD 65521]) (x : Byte) :
    (adlerByte sums' x).1 ≡ (adlerByte sums x).1 + d [MOD 65521] ∧
    (adlerByte sums' x).2 ≡ (adlerByte sums x).2 + (e + d) [MOD 65521] := by
  simp only [adlerByte, Config.adlerModulus, Nat.ModEq] at h1 h2 ⊢
  omega

/-- What the sums hold besides, before a sequence of bytes: the first sum keeps `d`, the second takes it up at each
byte. -/
theorem foldl_adlerByte_add (bytes : List Byte) {d e : Nat} {sums sums' : Nat × Nat}
    (h1 : sums'.1 ≡ sums.1 + d [MOD 65521]) (h2 : sums'.2 ≡ sums.2 + e [MOD 65521]) :
    (bytes.foldl adlerByte sums').1 ≡ (bytes.foldl adlerByte sums).1 + d [MOD 65521] ∧
    (bytes.foldl adlerByte sums').2 ≡ (bytes.foldl adlerByte sums).2 + (e + bytes.length * d) [MOD 65521] := by
  induction bytes generalizing e sums sums' with
  | nil => simpa using And.intro h1 h2
  | cons x bytes ih =>
    obtain ⟨hx1, hx2⟩ := adlerByte_add h1 h2 x
    have hlen : e + (x :: bytes).length * d = e + d + bytes.length * d := by rw [List.length_cons]; ring
    rw [hlen]
    exact ih hx1 hx2

/-- R98: B runs after A on sums that hold the sums of A, and so `a - 1` and `b`, besides the (1, 0) B alone starts
from. -/
theorem adlerSums_append (a b : List Byte) :
    (adlerSums (a ++ b)).1 ≡ (adlerSums b).1 + ((adlerSums a).1 + 65520) [MOD 65521] ∧
    (adlerSums (a ++ b)).2 ≡
      (adlerSums b).2 + ((adlerSums a).2 + b.length * ((adlerSums a).1 + 65520)) [MOD 65521] := by
  have happend : adlerSums (a ++ b) = b.foldl adlerByte (adlerSums a) := List.foldl_append
  have hstart : (adlerSums a).1 ≡ 1 + ((adlerSums a).1 + 65520) [MOD 65521] := by rw [Nat.ModEq]; omega
  rw [happend]
  exact foldl_adlerByte_add b (sums := (1, 0)) hstart (by rw [Nat.zero_add])

end runningSums

section checksum

/-- The checksum holds its two sums, one in each half (G3). -/
theorem adler32_toNat (bytes : List Byte) :
    (adler32 bytes).toNat = (adlerSums bytes).2 * 65536 + (adlerSums bytes).1 := by
  obtain ⟨h1, h2⟩ := adlerSums_lt bytes
  have hval : adler32 bytes = BitVec.ofNat 32 ((adlerSums bytes).1 ||| (adlerSums bytes).2 * 65536) := by
    rw [adler32, shiftLeft_16, Nat.lor_comm]; rfl
  rw [hval, BitVec.toNat_ofNat, lor_mul_mod_of_lt (by omega) (by omega)]

theorem low16_adler32 (bytes : List Byte) : (low16 (adler32 bytes)).toNat = (adlerSums bytes).1 := by
  obtain ⟨h1, -⟩ := adlerSums_lt bytes
  rw [low16, BitVec.extractLsb'_toNat, Nat.shiftRight_zero, adler32_toNat]
  omega

theorem high16_adler32 (bytes : List Byte) : (high16 (adler32 bytes)).toNat = (adlerSums bytes).2 := by
  obtain ⟨h1, h2⟩ := adlerSums_lt bytes
  rw [high16, BitVec.extractLsb'_toNat, Nat.shiftRight_eq_div_pow, adler32_toNat]
  omega

/-- "A value produced by a real Adler-32 computation is always reduced" (R96). -/
theorem adlerUnreduced_adler32 (a b : List Byte) : adlerUnreduced (adler32 a) (adler32 b) = false := by
  rw [adlerUnreduced_eq_false_iff, low16_adler32, high16_adler32, low16_adler32, high16_adler32]
  exact ⟨(adlerSums_lt a).1, (adlerSums_lt a).2, (adlerSums_lt b).1, (adlerSums_lt b).2⟩

/-- The closed form of `sum2` (R94) and the sum the bytes give: `len * (lo - 1)` either way. -/
theorem mul_add_sub_modEq {rem len : Nat} (hrem : rem = len % 65521) (lo : Nat) :
    rem * lo + (65521 - rem) ≡ len * (lo + 65520) [MOD 65521] := by
  have hcongr : len * (lo + 65520) ≡ rem * (lo + 65520) [MOD 65521] := by
    rw [hrem]; exact (Nat.mod_modEq len 65521).symm.mul_right _
  refine Nat.ModEq.trans ?_ hcongr.symm
  rw [Nat.mul_add, Nat.ModEq]
  omega

/-- R98: the combine of two checksums is the checksum of the concatenation. -/
theorem adlerCombine_adler32 (a b : List Byte) {len2 : Word} (hlen : len2.toNat = b.length) :
    (adlerCombine (adler32 a) (adler32 b) len2).setWidth 64 = (adler32 (a ++ b)).setWidth 64 := by
  obtain ⟨hlow, hhigh⟩ := adlerSums_lt (a ++ b)
  obtain ⟨hsum1, hsum2⟩ := adlerSums_append a b
  have hrem : adlerRem len2 = b.length % 65521 := by rw [adlerRem_eq, hlen]
  have hskip := mul_add_sub_modEq hrem (adlerSums a).1
  apply BitVec.eq_of_toNat_eq
  rw [toNat_adlerCombine_of_reduced (adlerUnreduced_adler32 a b), BitVec.toNat_setWidth_of_le (by decide),
    adler32_toNat, low16_adler32, high16_adler32, low16_adler32, high16_adler32]
  rw [Nat.ModEq] at hsum1 hsum2 hskip
  omega

end checksum

/-- Settles O46: the operands are the two checksums, which are reduced, and `adlerCombine_adler32` gives RES. -/
theorem adler32CombineGivesAdlerOfConcatenation : Obligations.Adler32CombineGivesAdlerOfConcatenation := by
  intro s a b hb hopa hopb hlen
  have h1 : adler1Operand s = adler32 a := hopa
  have h2 : adler2Operand s = adler32 b := hopb
  have hbytes : s.len.toNat = b.length := by
    rw [hlen, BitVec.toNat_ofNat, Nat.mod_eq_of_lt (by omega)]
  have hpos : s.len.getLsbD 63 = false := not_negative_of_toNat_lt (by omega)
  have hred : adlerUnreduced (adler1Operand s) (adler2Operand s) = false := by
    rw [h1, h2]; exact adlerUnreduced_adler32 a b
  rw [exec_adler32Combine_of_reduced hpos hred, h1, h2, adlerCombine_adler32 a b hbytes]

end Sys2Proof.Machine

/-!
PROOFS. The exceptions family (60_exceptions.md): a command that ends with an error writes STATUS only, and STATUS and
CMD change by CMD writes and resets alone.
-/

namespace Sys2Proof.Machine

section commandErrors

/-- A success leaves ERR clear (R25). -/
theorem statusErr_succeed (unred : Bool) (s : State) : statusErr (succeed unred s).status = false := by
  rw [succeed_status]
  cases unred <;> decide

/-- The two ways in which a command ends (R25, R102): it raises InvalidLength on the state it was given, or succeeds. -/
theorem exec_raises_or_succeeds {i : Instr} {s t : State} (h : exec i s = .next t) :
    t = raise .invalidLength s ∨ ∃ unred u, t = succeed unred u := by
  rcases exec_cases h with
    ⟨_, _, rfl⟩ | ⟨_, _, rfl⟩ | ⟨_, _, rfl⟩ | ⟨_, _, rfl⟩ | ⟨_, rfl⟩ | ⟨_, _, rfl⟩ | ⟨_, _, rfl⟩
  case inl => exact .inl rfl
  all_goals exact .inr ⟨_, _, rfl⟩

/-- Settles O52: a command that succeeds has ERR clear, and `raise` writes STATUS only. -/
theorem commandErrorsArePrecise : Obligations.CommandErrorsArePrecise := by
  intro i s t h herr
  rcases exec_raises_or_succeeds h with rfl | ⟨unred, u, rfl⟩
  · rfl
  · rw [statusErr_succeed] at herr
    cases herr

/-- The CMD write of a command that raises InvalidLength: 0x13 in STATUS, and the answer OKAY (R37, R102). -/
theorem busWrite_cmd_of_invalidLength {w : Word} {i : Instr} {s : State} (hd : decode w = .command i)
    (hx : exec i { s with cmd := w } = .next (raise .invalidLength { s with cmd := w })) :
    busWrite (offsetOf .cmd) w 0xFF s =
      .next { s with cmd := w, status := 0x13, response := some (.write .okay) } := by
  rw [busWrite_cmd, runCommand_of_command hd, hx, onNext, raise, errorStatus_invalidLength, answer]

/-- Settles O30: 0x005 and 0x006 are the words of the two combines, and the CMD write leaves LEN negative. -/
theorem negativeLengthSetsCmdAndStatusOnly : Obligations.NegativeLengthSetsCmdAndStatusOnly := by
  intro s hneg
  exact ⟨busWrite_cmd_of_invalidLength (decode_encode .crc64Combine) (exec_crc64Combine_negative hneg),
    busWrite_cmd_of_invalidLength (decode_encode .adler32Combine) (exec_adler32Combine_negative hneg)⟩

end commandErrors

section statusAndCmd

/-- CMD holds the word written, whether it is legal or not (R48). -/
theorem runCommand_cmd {w : Word} {s u : State} (h : runCommand w s = .next u) : u.cmd = w := by
  rcases runCommand_cases h with ⟨_, _, rfl⟩ | ⟨_, _, hx⟩
  · rfl
  · exact exec_cmd hx

/-- Settles O56: of the three outcomes of `step_cmd_status_res`, the first changes neither register. -/
theorem statusAndCmdChangeOnlyByCmdWrites : Obligations.StatusAndCmdChangeOnlyByCmdWrites := by
  intro s t h hchange
  rcases step_cmd_status_res h with
    ⟨hcmd, hstatus, _⟩ | ⟨e, he, hreset, _⟩ | ⟨w, rest, u, hp, hw, hcmd, _⟩
  · exact absurd hchange (not_or_intro (not_not_intro hstatus) (not_not_intro hcmd))
  · exact .inl ⟨e, he, hreset⟩
  · exact .inr ⟨w, nextEvent_of_pending hp, hcmd.trans (runCommand_cmd hw)⟩

end statusAndCmd

end Sys2Proof.Machine

/-!
PROOFS. The reset and hazards family (70_reset_and_hazards.md): every step completes, what a reset leaves and what the
commands do on it, and what can change RES and the slots.
-/

namespace Sys2Proof.Machine

section completion

/-- A command word leaves the later events at the port. -/
theorem runCommand_pending {w : Word} {s u : State} (h : runCommand w s = .next u) : u.pending = s.pending := by
  rcases runCommand_cases h with ⟨_, _, rfl⟩ | ⟨_, _, hx⟩
  · rfl
  · obtain ⟨_, _, _, _, _, hpending, _⟩ := exec_frame hx
    exact hpending

/-- Every transaction is answered (R131), and leaves the later events at the port. -/
theorem transact_completes (x : Transaction) (s : State) : ∃ u, transact x s = .next u ∧ u.pending = s.pending := by
  cases x with
  | busRead off =>
    obtain ⟨v, draws, hread⟩ := busRead_answers off s
    exact ⟨_, congrArg Host.Outcome.next hread, rfl⟩
  | busWrite off data strb =>
    rcases busWrite_cases off data strb s with ⟨h, _⟩ | ⟨_, _, h⟩ | ⟨r, t, _, _, hst, _, h⟩
    · exact ⟨_, h, rfl⟩
    · obtain ⟨u, hu⟩ := runCommand_eq_next data s
      exact ⟨answer (.write .okay) u, by rw [transact, h, hu, onNext],
        (answer_pending ..).trans (runCommand_pending hu)⟩
    · obtain ⟨hpending, _⟩ := storeReg_port hst
      exact ⟨_, h, hpending⟩

theorem portEvent_completes (e : HostEvent) (s : State) : ∃ u, portEvent e s = .next u ∧ u.pending = s.pending := by
  cases e with
  | request x => exact transact_completes x s
  | reset => exact ⟨resetBlock s, rfl, rfl⟩
  | resetDuring x => exact ⟨resetBlock s, rfl, rfl⟩

/-- Settles O14: with no event the block waits, and with one the event completes. -/
theorem everyStepCompletes : Obligations.EveryStepCompletes := by
  intro s
  cases hp : s.pending with
  | nil => exact ⟨_, waitingBlockKeepsItsState s hp, hp⟩
  | cons e rest =>
    obtain ⟨hstep, _⟩ := stepTakesTheOldestEvent s e rest hp
    obtain ⟨u, hu, hpending⟩ := portEvent_completes e { s with pending := rest }
    exact ⟨u, hstep.trans hu, hpending⟩

end completion

section resetBehaviour

/-- Settles O9: the abandoned transaction is answered by the reset alone. -/
theorem resetAbandonsTheTransaction : Obligations.ResetAbandonsTheTransaction :=
  fun s _ => ⟨resetBlock s, rfl, fun r => readReg_resetBlock r s, rfl, rfl⟩

/-- R121: a square of the zero map is the zero map, whichever slot takes it. -/
theorem exec_gf2Square_of_zeroSlots (sl : Slot) {s : State} (h0 : s.m0 = zeroMatrix) (h1 : s.m1 = zeroMatrix) :
    ∃ t, exec (.gf2Square sl) s = .next t ∧ t.m0 = zeroMatrix ∧ t.m1 = zeroMatrix := by
  cases sl with
  | m0 => exact ⟨_, exec_gf2Square_m0 s, h0, by rw [h0, square_zeroMatrix]⟩
  | m1 => exact ⟨_, exec_gf2Square_m1 s, by rw [h1, square_zeroMatrix], h1⟩

/-- R85 at LEN = 0: the one round leaves `B^8` in M0, and M1 as it was seeded, with `B^4`. -/
theorem crc64Combine_slots_of_len_zero {s : State} (hlen : s.len = 0) : ∃ t, exec .crc64Combine s = .next t ∧
    (∀ v, apply t.m0 v = (apply (buildBase s.poly))^[8] v) ∧
    ∀ v, apply t.m1 v = (apply (buildBase s.poly))^[4] v := by
  obtain ⟨t, ht, hnewest, holder⟩ := crc64CombineLeavesPowersInTheSlots s (by rw [hlen]; decide)
  have hrounds : max 1 (Nat.size s.len.toNat) = 1 := by rw [hlen]; rfl
  rw [hrounds] at hnewest holder
  exact ⟨t, ht, hnewest, holder⟩

/-- Settles O58: the zero map gives zero and squares to zero; POLY = 0 makes the powers of the base operator shifts
(R87 (d)); two all-zero checksums are reduced, and combine to 0xFFF0 (R94). -/
theorem commandsOnTheResetState : Obligations.CommandsOnTheResetState := by
  refine ⟨fun sl => ⟨_, exec_gf2Apply_registers sl State.reset, apply_zero _⟩,
    fun sl => exec_gf2Square_of_zeroSlots sl rfl rfl, ?_, ?_⟩
  · obtain ⟨t, ht, h0, h1⟩ := crc64Combine_slots_of_len_zero (s := State.reset) rfl
    obtain rfl := Host.Outcome.next.inj (ht.symm.trans (exec_crc64Combine_registers (by decide)))
    exact ⟨_, ht, by decide, rfl, fun v => (h0 v).trans (iterate_apply_buildBase_zero 8 v),
      fun v => (h1 v).trans (iterate_apply_buildBase_zero 4 v)⟩
  · exact ⟨_, exec_adler32Combine_of_reduced (by decide) (by decide), by decide, rfl⟩

end resetBehaviour

section resChanges

theorem commandSucceeded_of_status {s t : State} (h : t.status = s.status) :
    commandSucceeded t = commandSucceeded s := by
  rw [commandSucceeded, commandSucceeded, h]

theorem commandSucceeded_succeed (unred : Bool) (s : State) : commandSucceeded (succeed unred s) = true := by
  rw [commandSucceeded, succeed_status]
  cases unred <;> decide

/-- R126 for a command: it leaves RES, or it is one of the three that write it, and succeeds. -/
theorem exec_res {i : Instr} {s t : State} (h : exec i s = .next t) :
    t.res = s.res ∨
    ((∃ sl, i = .gf2Apply sl) ∨ i = .crc64Combine ∨ i = .adler32Combine) ∧ commandSucceeded t = true := by
  rcases exec_cases h with
    ⟨_, _, rfl⟩ | ⟨sl, rfl, rfl⟩ | ⟨sl, _, rfl⟩ | ⟨sl, _, rfl⟩ | ⟨_, rfl⟩ | ⟨rfl, _, rfl⟩ | ⟨rfl, _, rfl⟩
  · exact .inl rfl
  · exact .inr ⟨.inl ⟨sl, rfl⟩, commandSucceeded_succeed ..⟩
  · exact .inl ((succeed_res ..).trans (writeSlot_res ..))
  · exact .inl ((succeed_res ..).trans (writeSlot_res ..))
  · exact .inl (by rw [succeed_res, writeSlot_res, writeSlot_res])
  · exact .inr ⟨.inr (.inl rfl), commandSucceeded_succeed ..⟩
  · exact .inr ⟨.inr (.inr rfl), commandSucceeded_succeed ..⟩

/-- Settles O54: of the three outcomes of `step_cmd_status_res` the first leaves RES, and so does an illegal word. -/
theorem resChangesOnlyByItsCommands : Obligations.ResChangesOnlyByItsCommands := by
  intro s t h hchange
  rcases step_cmd_status_res h with
    ⟨_, _, hres⟩ | ⟨e, he, hreset, _⟩ | ⟨w, rest, u, hp, hw, _, hstatus, hres⟩
  · exact absurd hres hchange
  · exact .inl ⟨e, he, hreset⟩
  · rcases runCommand_cases hw with ⟨_, _, rfl⟩ | ⟨i, hd, hx⟩
    · exact absurd hres hchange
    · rcases exec_res hx with hsame | ⟨hi, hsucc⟩
      · exact absurd (hres.trans hsame) hchange
      · exact .inr ⟨w, i, nextEvent_of_pending hp, hd, hi, (commandSucceeded_of_status hstatus).trans hsucc⟩

end resChanges

section slotChanges

/-- A slot is that of the two matrices it names. -/
theorem slot_congr {s t : State} (h0 : t.m0 = s.m0) (h1 : t.m1 = s.m1) (sl : Slot) : slot sl t = slot sl s := by
  cases sl
  · exact h0
  · exact h1

/-- R125 for a command: it leaves the slot, or it is one of those that clobber it. -/
theorem exec_slot {i : Instr} {s t : State} (h : exec i s = .next t) (sl : Slot) :
    slot sl t = slot sl s ∨
    i = .gf2Square (otherSlot sl) ∨ i = .zopBase sl ∨ i = .zopSeed ∨ i = .crc64Combine := by
  rcases exec_cases h with
    ⟨_, _, rfl⟩ | ⟨_, _, rfl⟩ | ⟨d, rfl, rfl⟩ | ⟨d, rfl, rfl⟩ | ⟨rfl, _⟩ | ⟨rfl, _⟩ | ⟨_, _, rfl⟩
  · exact .inl (slot_raise ..)
  · exact .inl ((slot_succeed ..).trans (slot_writeRes ..))
  · rcases slot_eq_or_otherSlot d sl with rfl | rfl
    · exact .inl ((slot_succeed ..).trans (slot_writeSlot_otherSlot ..))
    · exact .inr (.inl (by rw [otherSlot_otherSlot]))
  · rcases slot_eq_or_otherSlot d sl with rfl | rfl
    · exact .inr (.inr (.inl rfl))
    · exact .inl ((slot_succeed ..).trans (slot_writeSlot_other ..))
  · exact .inr (.inr (.inr (.inl rfl)))
  · exact .inr (.inr (.inr (.inr rfl)))
  · exact .inl ((slot_succeed ..).trans (slot_writeRes ..))

/-- A host write leaves the slot, or writes one of its rows (R36). -/
theorem storeReg_slot {r : WindowReg} {v : Word} {s t : State} (h : storeReg r v s = some t) (sl : Slot) :
    slot sl t = slot sl s ∨ ∃ j, r = .row sl j := by
  cases r with
  | row d j =>
    obtain rfl : writeRow d j v s = t := Option.some.inj h
    rcases slot_eq_or_otherSlot d sl with rfl | rfl
    · exact .inr ⟨j, rfl⟩
    · exact .inl (slot_writeSlot_other ..)
  | status | res => cases h
  | cmd | poly | opa | opb | len => cases h; exact .inl (slot_congr rfl rfl sl)

theorem slot_busRead (off : Offset) (s : State) (sl : Slot) : slot sl (busRead off s) = slot sl s := by
  obtain ⟨v, draws, hread⟩ := busRead_answers off s
  rw [hread, slot_answer]
  exact slot_congr rfl rfl sl

/-- A command word leaves the slot, or is the word of a command that clobbers it: an illegal word leaves both slots. -/
theorem runCommand_slot {w : Word} {s u : State} (h : runCommand w s = .next u) (sl : Slot) :
    slot sl u = slot sl s ∨ ∃ i, w = encode i ∧
      (i = .gf2Square (otherSlot sl) ∨ i = .zopBase sl ∨ i = .zopSeed ∨ i = .crc64Combine) := by
  have hset : slot sl { s with cmd := w } = slot sl s := slot_congr rfl rfl sl
  rcases runCommand_cases h with ⟨_, _, rfl⟩ | ⟨i, hd, hx⟩
  · exact .inl ((slot_raise ..).trans hset)
  · rcases exec_slot hx sl with hsame | hi
    · exact .inl (hsame.trans hset)
    · exact .inr ⟨i, eq_encode_of_decode hd, hi⟩

/-- Settles O55: of all that a step can do, only a reset, a row write and a clobbering command change the slot. -/
theorem slotsChangeOnlyByTheirCommands : Obligations.SlotsChangeOnlyByTheirCommands := by
  intro s t sl h hchange
  have htake (rest : List HostEvent) : slot sl { s with pending := rest } = slot sl s := slot_congr rfl rfl sl
  rcases step_cases h with ⟨_, rfl⟩ | ⟨e, rest, hp, he, _⟩ | ⟨off, rest, _, rfl⟩ | ⟨_, _, _, rest, _, rfl⟩ |
    ⟨r, data, rest, u, hp, _, hst, rfl⟩ | ⟨w, rest, u, hp, hw, rfl⟩
  · exact absurd (slot_congr rfl rfl sl) hchange
  · exact .inl ⟨e, nextEvent_of_pending hp, he⟩
  · exact absurd ((slot_busRead ..).trans (htake rest)) hchange
  · exact absurd ((slot_answer ..).trans (htake rest)) hchange
  · rcases storeReg_slot hst sl with hsame | ⟨j, rfl⟩
    · exact absurd ((slot_answer ..).trans (hsame.trans (htake rest))) hchange
    · exact .inr (.inl ⟨j, data, nextEvent_of_pending hp⟩)
  · rcases runCommand_slot hw sl with hsame | ⟨i, rfl, hi⟩
    · exact absurd ((slot_answer ..).trans (hsame.trans (htake rest))) hchange
    · exact .inr (.inr ⟨i, nextEvent_of_pending hp, hi⟩)

end slotChanges

end Sys2Proof.Machine
